-- ==== Sys2Proof/Word.lean ====
section
/-! DEFINITION. The bit vectors ERT-CORE's registers and buses hold (spec/10_state.md). -/

namespace Sys2Proof

/-- One byte of the sample memory, or one raw I or Q component (R44). -/
abbrev Byte := BitVec 8

/-- One register or bus word (R21, R42). -/
abbrev Word := BitVec 32

/-- A 96-bit decision sequence or frame `F`, with frame bit `f` at bit `95 − f` (R17, R64). -/
abbrev Frame := BitVec 96

/-- The 128-bit dividend or quotient, with the coefficient of `x^k` at bit `k` (R18, R65). -/
abbrev WidePoly := BitVec 128

end Sys2Proof
end

