-- ==== Sys2Proof/Machine/Bits.lean ====
section
/-! DEFINITION. Bit helpers: lengths and carry-less products (spec/00_scope.md R16, R18), frame slices (R17), the words of a
wide register (spec/10_state.md section 2) and little-endian bytes (spec/20_memory.md R43). -/

namespace Sys2Proof.Machine

/-- `bitlen(v)`: the bits up to and including the highest set bit, with `bitlen(0) = 0` (R16). -/
def bitlen (v : Nat) : Nat :=
  if v = 0 then 0 else Nat.log2 v + 1

/-- The carry-less product of the low `n` bits of `a` with `b`. -/
def clmulLow : Nat → Nat → Nat → Nat
  | 0, _, _ => 0
  | n + 1, a, b => clmulLow n a b ^^^ (if a.testBit n then b <<< n else 0)

/-- `clmul(a, b)`, the GF(2) product (R18). -/
def clmul (a b : Nat) : Nat := clmulLow (bitlen a) a b

/-- `frame[a : a+w)`, MSB first, which is `F[95−a : 96−a−w]` (R17, R101). -/
def frameSlice (F : Frame) (a w : Nat) : BitVec w := F.extractLsb' (96 - (a + w)) w

/-- Word `j` of a wide register: bits `32j+31` to `32j` (R31 to R35). -/
def wordAt {n : Nat} (v : BitVec n) (j : Nat) : Word := v.extractLsb' (32 * j) 32

/-- A wide register with word `j` replaced. -/
def withWord {n : Nat} (v : BitVec n) (j : Nat) (w : Word) : BitVec n :=
  (v &&& ~~~((0xFFFFFFFF#32).setWidth n <<< (32 * j))) ||| (w.setWidth n <<< (32 * j))

/-- Byte `i` of a bus word: the byte at the word's offset plus `i` (R43). -/
def byteOfWord (w : Word) (i : Nat) : Byte := w.extractLsb' (8 * i) 8

/-- The bus word of four consecutive bytes, the first at the lowest offset (R43). -/
def wordOfBytes (b0 b1 b2 b3 : Byte) : Word := b3 ++ b2 ++ b1 ++ b0

end Sys2Proof.Machine
end

