-- ==== Sys2Proof/Config.lean ====
section
/-! DEFINITION. The constants of spec/00_scope.md section 3, the implementation parameters of its section 4, and the
free values of the model: what the spec leaves open and nothing in Lean can evaluate. -/

namespace Sys2Proof

/-- SAMPLE_RATE, samples per second (R6). -/
def sampleRate : Nat := 2392064

/-- DATA_RATE, symbols per second (R6). -/
def dataRate : Nat := 16384

/-- SP, samples per symbol: the quotient is exact (R6, C6). -/
def symbolPeriod : Nat := sampleRate / dataRate

/-- HALF = SP/2 (R7). -/
def halfSymbol : Nat := symbolPeriod / 2

/-- NSYM, symbols and so bits per frame (R7). -/
def frameBits : Nat := 96

/-- WIN = 96·SP + 2, the samples one evaluation reads (R12, D3). -/
def windowLength : Nat := frameBits * symbolPeriod + 2

/-- PREAMBLE, leftmost character most significant (R8). -/
def preamble : BitVec 21 := 0b111110010101001100000#21

/-- BCH_POLY, the coefficient of `x^k` at bit `k` (R9). -/
def bchPoly : Nat := 0b10110111101100011

/-- BIAS (R10). -/
def sampleBias : Int := 127

/-- JMP, the host driver's fine step in samples (R11). -/
def alignmentStep : Nat := 30

/-- BLOCKSIZE, the host driver's block in samples (R11). -/
def blockSize : Nat := 18688

/-- The size of the bus window in bytes, 128 KiB (R40). -/
def windowBytes : Nat := 0x20000

/-- The offset of sample 0 in the window (R41). -/
def sampleBase : Nat := 0x10000

/-- SAMPLE_BYTE_FORMAT: how a raw byte is read before the bias is subtracted (R13). -/
inductive ByteFormat
  /-- `S8`, two's complement, the spec's default (D2). -/
  | s8
  /-- `U8`, unsigned. -/
  | u8
  deriving DecidableEq, Repr

/-- DC_BASE: the frame bit that dc position 180 stands for (R14, R103). -/
inductive DcBase
  /-- 20, the spec's default (D6). -/
  | dc20
  /-- 21, the legal alternative. -/
  | dc21
  deriving DecidableEq, Repr

/-- DC_BASE as a frame bit index. -/
def DcBase.index : DcBase → Nat
  | .dc20 => 20
  | .dc21 => 21

/-- The parameters fixed when the block is built (R202). Log entry 3. -/
structure Config where
  /-- SAMPLE_BYTE_FORMAT (R13). -/
  byteFormat : ByteFormat
  /-- DC_BASE (R14). -/
  dcBase : DcBase
  /-- SAMPLE_CAP, in samples (R15). -/
  sampleCap : Nat
  /-- BASE, the byte address of the window (R40). -/
  base : Nat
  deriving DecidableEq, Repr

/-- The spec's values (section 4); BASE is OPEN and 0 is the model's, DESIGN CHOICE, log entry 3. -/
def Config.default : Config where
  byteFormat := .s8
  dcBase := .dc20
  sampleCap := 18688
  base := 0

/-- The value of a sample byte that nothing has written since reset (R201, X5, X6): free. The arguments are the number
of resets so far and the byte's offset. Log entry 1. -/
opaque Config.freeByte : Nat → Nat → Byte

/-- LATENCY of the n-th issued command, in host steps between issue and completion (R152, D19): free. Log entry 2. -/
opaque Config.latency : Nat → Nat

/-- What the reference driver writes for a sample past the end of its sequence, by sample index (R163, X10): free.
Log entry 12. -/
opaque Config.padSample : Nat → BitVec 16

end Sys2Proof
end

