-- ==== Sys2Proof/Syntax.lean ====
section
/-! DEFINITION. The six commands of ERT-CORE (spec/30_encoding.md R61, one row of spec/opcode_table.json each). -/

namespace Sys2Proof

/-- A command. None has an operand field: every operand is in a register the host wrote before (R60). -/
inductive Instr
  /-- NOP, word 0x00000000 (R154). -/
  | nop
  /-- EVAL, word 0x00000001 (R135). -/
  | eval
  /-- CHECK, word 0x00000002 (R136). -/
  | check
  /-- DIV, word 0x00000003 (R89). -/
  | div
  /-- EXTRACT, word 0x00000004 (R110). -/
  | extract
  /-- CLEAR_COUNT, word 0x00000005 (R155). -/
  | clearCount
  deriving DecidableEq, Repr

end Sys2Proof
end

