-- ==== Sys2Proof/WellFormed.lean ====
section
/-! DEFINITION. What makes a command and a configuration legal. -/

namespace Sys2Proof

/-- A command has no operand field (R60), so there is nothing in one that could be ill-formed. -/
def Instr.wf : Instr → Bool
  | .nop => true
  | .eval => true
  | .check => true
  | .div => true
  | .extract => true
  | .clearCount => true

/-- The legal values of the parameter table of 00_scope.md section 4 (R15, R40). SAMPLE_BYTE_FORMAT and DC_BASE are
legal by their types. -/
def Config.wf (c : Config) : Bool :=
  c.sampleCap % 2 == 0 && decide (windowLength ≤ c.sampleCap) && decide (c.sampleCap ≤ 32768) &&
    c.base % windowBytes == 0

end Sys2Proof
end

