-- ==== Sys2Proof/Machine/State.lean ====
section
/-! DEFINITION. The state of ERT-CORE (spec/10_state.md) with its host (spec/30_encoding.md R70, spec/44_host_scan.md),
as plain data, and its value after reset (spec/70_reset_and_hazards.md R200). -/

namespace Sys2Proof.Machine

/-- The 26 rows of the register map (10_state.md section 2). -/
inductive Reg
  | ctrl | status | cmd | align | nsamp | recordCount
  | recId | recInfo | recCons
  | decHi | decMid | decLo
  | frameHi | frameMid | frameLo
  | divdW0 | divdW1 | divdW2 | divdW3
  | divs | divLen | rem
  | quotW0 | quotW1 | quotW2 | quotW3
  deriving DecidableEq, Repr

/-- The width of a host access; only `word` accesses are performed (R42). -/
inductive Width
  | byte | half | word
  deriving DecidableEq, Repr

/-- One host access, at a byte address of the bus (R40). A write narrower than a word carries its value in the low bits. -/
inductive BusAccess
  | read (addr : Nat) (width : Width)
  | write (addr : Nat) (width : Width) (value : Word)
  deriving DecidableEq, Repr

/-- What an access reaches (R41, R42). -/
inductive Target
  /-- A register. -/
  | register (r : Reg)
  /-- The aligned sample word at this offset of the window. -/
  | sampleWord (offset : Nat)
  /-- Nothing: not an aligned 32-bit access to a mapped offset. -/
  | ignored
  deriving DecidableEq, Repr

/-- How the host takes up a scan that a reset interrupted (R210). -/
inductive Restart
  /-- From the start of the sequence. -/
  | fromStart
  /-- From the cursor the host has saved. -/
  | fromCursor
  deriving DecidableEq, Repr

/-- What the outside world does to the block, in program order: the primitive statements of R70, a turn of the reference
driver, and the reset input (R200). Log entry 4. -/
inductive HostEvent
  /-- `wr`, `rd`, `wrs`, `rds`, `wra`, `rda`. -/
  | access (a : BusAccess)
  /-- `poll`: repeat a 32-bit read until `(value & mask) = expected`. -/
  | poll (addr : Nat) (mask expected : Word)
  /-- The reference driver takes its next access, if it has one left (R169). -/
  | turn
  /-- The reset input is asserted; a host in the middle of a scan then restarts it (R210; log entry 19). -/
  | reset (how : Restart)
  deriving DecidableEq, Repr

/-- The codes of STATUS.RESULT (R181). -/
inductive ResultCode
  /-- 0x0: no command has completed since reset. -/
  | none
  /-- 0x1. -/
  | ok
  /-- 0x2. -/
  | noPreamble
  /-- 0x3. -/
  | bchFail
  /-- 0x4. -/
  | divInvalidOperand
  /-- 0x5. -/
  | divDivisorTooLarge
  /-- 0x6: reserved, never produced (R86). -/
  | divInvalidBit
  /-- 0x7. -/
  | record
  /-- 0x8. -/
  | windowRange
  /-- 0x9. -/
  | illegalCmd
  deriving DecidableEq, Repr

/-- The engine state machine of R153. `wait` is how many host steps may still come before the completion step: LATENCY
(R152), log entry 2. -/
inductive Engine
  /-- BUSY = 0, no latched command. -/
  | idle
  /-- BUSY = 1, with the latched command word (R37). -/
  | running (word : Word) (wait : Nat)
  deriving DecidableEq, Repr

/-- The sample memory: (offset, byte) pairs, offsets strictly rising; an unlisted byte has no stored value. -/
abbrev Memory := List Host.Cell

/-- A decoded record, as REC_ID, REC_INFO and REC_CONS hold it (R67). -/
structure Record where
  /-- REC_ID[25:0] (R28). -/
  meterId : BitVec 26
  /-- REC_INFO[3:0] (R29). -/
  meterType : BitVec 4
  /-- REC_INFO[5:4] (R29). -/
  physTamper : BitVec 2
  /-- REC_INFO[7:6] (R29). -/
  encTamper : BitVec 2
  /-- REC_CONS[23:0] (R30). -/
  consumption : BitVec 24
  deriving DecidableEq, Repr

/-- The result of the last division, as DIV_LEN, REM and QUOT hold it (R35). -/
structure Division where
  /-- REM[30:0]. -/
  rem : BitVec 31
  /-- QUOT_W3:QUOT_W2:QUOT_W1:QUOT_W0. -/
  quot : WidePoly
  /-- DIV_LEN[7:0]. -/
  remLen : BitVec 8
  /-- DIV_LEN[15:8]. -/
  quotLen : BitVec 8
  deriving DecidableEq, Repr

/-- A record with the detection position the reference driver pairs it with (R167). -/
structure ScanRecord where
  position : Nat
  fields : Record
  deriving DecidableEq, Repr

/-- Which bus access the reference driver performs next (R169). -/
inductive Phase
  /-- `wr CMD, CLEAR_COUNT`. -/
  | clearCount
  /-- The `wait` of `run CLEAR_COUNT`. -/
  | awaitClear
  /-- `wrs m` of the block load. -/
  | loadWord (m : Nat)
  /-- `wr NSAMP, L`. -/
  | setNsamp
  /-- `wr ALIGN, p − b`. -/
  | setAlign
  /-- `wr CMD, EVAL`. -/
  | issueEval
  /-- The `wait` of `run EVAL`. -/
  | awaitEval
  /-- `rd STATUS`. -/
  | readResult
  /-- `rd REC_ID`. -/
  | readId
  /-- `rd REC_INFO`, with REC_ID read. -/
  | readInfo (id : Word)
  /-- `rd REC_CONS`, with REC_ID and REC_INFO read. -/
  | readCons (id info : Word)
  /-- `rd RECORD_COUNT`. -/
  | readTotal
  /-- The driver has returned, with this total. -/
  | finished (total : Word)
  deriving DecidableEq, Repr

/-- The reference driver's variables (R161 to R169), and what it keeps across a reset (R210). -/
structure Driver where
  /-- The input byte string (R161). -/
  bytes : List Byte
  /-- The absolute cursor `p` (R164). -/
  p : Nat
  /-- The block start `b` (R162). -/
  b : Nat
  phase : Phase
  /-- The records so far, in detection order (R170). -/
  records : List ScanRecord
  /-- The records of scans that a reset ended and that were then restarted from the start (R210). -/
  earlier : List ScanRecord
  /-- How many of `records` were read before the last reset, so that RECORD_COUNT no longer counts them (R210). -/
  uncounted : Nat
  deriving DecidableEq, Repr

/-- The outside world and the open choices, as plain data: the model's own fields, not the block's. Log entries 1, 2, 4. -/
structure Environment where
  /-- Host events still to come, in order. -/
  inputs : List HostEvent
  /-- The values the host's statements have read, newest first. -/
  observed : List Word
  /-- The reference driver, when the host runs it; it acts at each event `turn`, and when `inputs` is empty. -/
  driver : Option Driver
  /-- Latencies of the coming commands, as far as they are fixed from outside. -/
  latencies : List Nat
  /-- Commands issued so far: the argument of the next free latency. -/
  issued : Nat
  /-- Resets so far: an argument of the free bytes. -/
  resets : Nat
  deriving DecidableEq, Repr

/-- Everything the spec gives the machine (R20), the configuration, and the environment. -/
structure State where
  cfg : Config
  /-- CTRL[0] IE (R22). -/
  ie : Bool
  /-- STATUS[1] DONE (R23). -/
  done : Bool
  /-- STATUS[2] BUSY_WR_ERR (R23). -/
  busyWrErr : Bool
  /-- STATUS[3] ACC_ERR (R23). -/
  accErr : Bool
  /-- STATUS[11:8] RESULT (R23). -/
  result : ResultCode
  /-- ALIGN (R25). -/
  align : Word
  /-- NSAMP[15:0] (R26). -/
  nsamp : BitVec 16
  /-- RECORD_COUNT (R27). -/
  recordCount : Word
  /-- REC_ID, REC_INFO, REC_CONS (R28 to R30). -/
  record : Record
  /-- DEC_HI:DEC_MID:DEC_LO (R31). -/
  dec : Frame
  /-- FRAME_HI:FRAME_MID:FRAME_LO (R32). -/
  frame : Frame
  /-- DIVD_W3:DIVD_W2:DIVD_W1:DIVD_W0 (R33). -/
  dividend : WidePoly
  /-- DIVS (R34). -/
  divisor : Word
  /-- DIV_LEN, REM, QUOT (R35). -/
  division : Division
  /-- The sample memory (R39). -/
  mem : Memory
  /-- STATUS[0] BUSY and the latched command (R23, R37, R153; log entry 7). -/
  engine : Engine
  env : Environment
  deriving DecidableEq, Repr

/-- No instruction, no access and no input stops the machine with a fault: ERT-CORE has no trap and no halt state, and no
fatal error (R180). Nobody raises one. Log entry 21. -/
inductive Fault
  deriving DecidableEq, Repr

/-- Why the machine has no meaning for an instruction. -/
inductive Refusal
  /-- An instruction without a meaning yet: raised by no arm of `exec` in this model (safe). -/
  | notModelled (mnemonic : String)
  deriving DecidableEq, Repr

/-- The record registers at reset (R200). -/
def Record.reset : Record := ⟨0, 0, 0, 0, 0⟩

/-- The division registers at reset, and after a division that ends with a divider error (R35, R200). -/
def Division.zero : Division := ⟨0, 0, 0, 0⟩

/-- Nothing pending and nothing observed: DESIGN CHOICE, log entries 1, 2 and 4. -/
def Environment.empty : Environment := ⟨[], [], none, [], 0, 0⟩

/-- The machine right after reset (R200). -/
def State.reset : State where
  cfg := .default
  ie := false
  done := false
  busyWrErr := false
  accErr := false
  result := .none
  align := 0
  nsamp := 0
  recordCount := 0
  record := .reset
  dec := 0
  frame := 0
  dividend := 0
  divisor := 0x00016F63
  division := .zero
  mem := []
  engine := .idle
  env := .empty

end Sys2Proof.Machine
end

