-- ==== Sys2Proof/Machine/Ops.lean ====
section
/-! DEFINITION. The named operations over the sample memory, the result registers and the engine: issue, completion and
reset (spec/43_control.md R150, R151, spec/70_reset_and_hazards.md R200). -/

namespace Sys2Proof.Machine

/-- The cells from the first one at or above `lo` on. -/
def Memory.skip (lo : Nat) : Memory → Memory
  | [] => []
  | (k, b) :: m => if k < lo then Memory.skip lo m else (k, b) :: m

/-- The stored byte at an offset, if one is listed. -/
def Memory.read (m : Memory) (a : Nat) : Option Byte :=
  match m.skip a with
  | [] => none
  | (k, b) :: _ => if k = a then some b else none

/-- The cells of consecutive bytes, the first at `a`. -/
def Memory.cells : Nat → List Byte → Memory
  | _, [] => []
  | a, b :: bs => (a, b) :: Memory.cells (a + 1) bs

/-- Store consecutive bytes, the first at `a`, keeping the offsets strictly rising. -/
def Memory.writeRun (a : Nat) (bs : List Byte) : Memory → Memory
  | [] => Memory.cells a bs
  | (k, b) :: m =>
    if k < a then (k, b) :: Memory.writeRun a bs m
    else Memory.cells a bs ++ Memory.skip (a + bs.length) ((k, b) :: m)

/-- Every listed offset is at least `lo`, and the offsets rise strictly. -/
def Memory.risingFrom : Nat → Memory → Bool
  | _, [] => true
  | lo, (k, _) :: m => decide (lo ≤ k) && Memory.risingFrom (k + 1) m

/-- The canonical form: offsets strictly rising. An unlisted byte has no stored value, so no entry can equal it. -/
def Memory.wf (m : Memory) : Bool := Memory.risingFrom 0 m

/-- Every listed offset is a byte of the sample memory of a block of `cap` samples (R44). -/
def Memory.within (cap : Nat) (m : Memory) : Bool :=
  m.all fun c => decide (sampleBase ≤ c.1) && decide (c.1 < sampleBase + 2 * cap)

/-- The byte of `m` at an offset: the stored one, else a free value (R201, X5, X6; log entry 1). -/
def Memory.byteOr (resets : Nat) (m : Memory) (a : Nat) : Byte :=
  match m.read a with
  | some b => b
  | none => Config.freeByte resets a

/-- The byte at an offset of the sample memory (R44). -/
def State.byteAt (s : State) (a : Nat) : Byte := s.mem.byteOr s.env.resets a

/-- The sample word at an offset, little-endian (R43, R45). -/
def State.loadWord (s : State) (o : Nat) : Word :=
  wordOfBytes (s.byteAt o) (s.byteAt (o + 1)) (s.byteAt (o + 2)) (s.byteAt (o + 3))

/-- The four bytes of a bus word, the lowest offset first (R43). -/
def bytesOfWord (v : Word) : List Byte := [byteOfWord v 0, byteOfWord v 1, byteOfWord v 2, byteOfWord v 3]

/-- Write the sample word at an offset, little-endian (R43, R46). -/
def State.storeWord (o : Nat) (v : Word) (s : State) : State := { s with mem := s.mem.writeRun o (bytesOfWord v) }

/-- `SampleRead(k)`: the raw (I byte, Q byte) of sample `k` (R44). -/
def State.sampleRead (s : State) (k : Nat) : Byte × Byte :=
  (s.byteAt (sampleBase + 2 * k), s.byteAt (sampleBase + 2 * k + 1))

/-- Write DIV_LEN, REM and QUOT together (R35, R134). -/
def State.writeDivision (d : Division) (s : State) : State := { s with division := d }

/-- Write the three REC registers together, in one step (R30). -/
def State.writeRecord (r : Record) (s : State) : State := { s with record := r }

/-- Write DEC (R31). -/
def State.writeDec (F : Frame) (s : State) : State := { s with dec := F }

/-- Write RECORD_COUNT (R27). -/
def State.writeCount (n : Word) (s : State) : State := { s with recordCount := n }

/-- LATENCY of the command now issued: fixed from outside, else a free value (R152; log entry 2). -/
def Environment.nextLatency (e : Environment) : Nat :=
  match e.latencies with
  | d :: _ => d
  | [] => Config.latency e.issued

/-- One more command issued. -/
def Environment.countIssue (e : Environment) : Environment :=
  { e with latencies := e.latencies.tail, issued := e.issued + 1 }

/-- Issue: the word is latched, BUSY becomes 1 and DONE 0; it is not decoded (R150). -/
def State.issue (w : Word) (s : State) : State :=
  { s with engine := .running w s.env.nextLatency, done := false, env := s.env.countIssue }

/-- Completion, the block's counterpart of taking an exception (R188): RESULT takes the code, BUSY becomes 0, DONE 1, and
the latched command is gone (R151). Nothing else is saved or masked; the counterpart of the return is the host's clearing
of DONE, `State.clearStatus`. -/
def State.complete (code : ResultCode) (s : State) : State :=
  { s with result := code, done := true, engine := .idle }

/-- The reset input (R200, R201, R202): every register takes its reset value, a command in flight is abandoned, the sample
memory becomes unspecified, and what the block was built with and what the outside world holds stay. -/
def State.applyReset (s : State) : State :=
  { State.reset with cfg := s.cfg, env := { s.env with resets := s.env.resets + 1 } }

end Sys2Proof.Machine
end

