-- ==== Sys2Proof/Machine/Control.lean ====
section
/-! DEFINITION. The NOP and CLEAR_COUNT commands and the completion of an illegal word (spec/43_control.md R154 to R156). -/

namespace Sys2Proof.Machine

/-- NOP: nothing; completes with OK (R154). -/
def execNop (s : State) : Host.Outcome State Fault Refusal := .next (s.complete .ok)

/-- CLEAR_COUNT: RECORD_COUNT becomes 0 (R155). -/
def execClearCount (s : State) : Host.Outcome State Fault Refusal := .next ((s.writeCount 0).complete .ok)

/-- The completion of a word that is none of the six commands: ILLEGAL_CMD and no other effect (R156). -/
def completeIllegal (s : State) : Host.Outcome State Fault Refusal := .next (s.complete .illegalCmd)

end Sys2Proof.Machine
end

