-- ==== Sys2Proof/Machine/Divider.lean ====
section
/-! DEFINITION. The binary polynomial divider (spec/40_divider.md R80 to R87) and the DIV command (R89). -/

namespace Sys2Proof.Machine

/-- What `Divide` returns (R80). -/
inductive DivideResult
  /-- INVALID_OPERAND. -/
  | invalidOperand
  /-- DIVISOR_TOO_LARGE. -/
  | divisorTooLarge
  /-- The quadruple (R, Q, rem_len, quot_len). -/
  | ok (rem quot remLen quotLen : Nat)
  deriving DecidableEq, Repr

/-- The XOR of the window with `G`, when the window's leading bit `gl − 1` is 1 (R83). -/
def reduceWindow (G gl W : Nat) : Nat := if W.testBit (gl - 1) then W ^^^ G else W

/-- The quotient with the next bit appended: the window's leading bit (R83). -/
def appendQuotient (gl W Q : Nat) : Nat := if W.testBit (gl - 1) then 2 * Q + 1 else 2 * Q

/-- The loop of R83. The first argument after `gl` counts the bits of `D` not yet consumed, so that the next one is bit
`left − 1` of `D`; at 0 the loop ends without shifting. It returns (W, Q, qlen). -/
def divideLoop (D G gl : Nat) : Nat → Nat → Nat → Nat → Nat × Nat × Nat
  | 0, W, Q, qlen => (reduceWindow G gl W, appendQuotient gl W Q, qlen + 1)
  | left + 1, W, Q, qlen =>
    divideLoop D G gl left (2 * reduceWindow G gl W % 2 ^ gl + (D.testBit left).toNat) (appendQuotient gl W Q) (qlen + 1)

/-- `Divide(D, G)` (R80 to R87). -/
def divide (D G : Nat) : DivideResult :=
  if bitlen D = 0 ∨ bitlen G = 0 then .invalidOperand
  else if bitlen G > bitlen D then .divisorTooLarge
  else
    let r := divideLoop D G (bitlen G) (bitlen D - bitlen G) (D >>> (bitlen D - bitlen G)) 0 0
    .ok r.1 r.2.1 (bitlen r.1) r.2.2

/-- What a division leaves in REM, QUOT and DIV_LEN: the result, or 0 everywhere after a divider error (R35, R89). -/
def DivideResult.registers : DivideResult → Division
  | .invalidOperand => .zero
  | .divisorTooLarge => .zero
  | .ok r q rl ql => ⟨BitVec.ofNat 31 r, BitVec.ofNat 128 q, BitVec.ofNat 8 rl, BitVec.ofNat 8 ql⟩

/-- The result code of a DIV (R89): a nonzero remainder is no error. -/
def DivideResult.divCode : DivideResult → ResultCode
  | .invalidOperand => .divInvalidOperand
  | .divisorTooLarge => .divDivisorTooLarge
  | .ok _ _ _ _ => .ok

/-- The division DIV runs: DIVD by DIVS (R89). -/
def State.divCommand (s : State) : DivideResult := divide s.dividend.toNat s.divisor.toNat

/-- DIV (R89). -/
def execDiv (s : State) : Host.Outcome State Fault Refusal :=
  .next ((s.writeDivision s.divCommand.registers).complete s.divCommand.divCode)

end Sys2Proof.Machine
end

