-- ==== Sys2Proof/Machine/Extractor.lean ====
section
/-! DEFINITION. The field extractor (spec/41_field_extractor.md R100 to R109) and the EXTRACT command (R110). -/

namespace Sys2Proof.Machine

/-- `Extract(F)` for either DC_BASE (R102 to R107). -/
def extractFields (dc : DcBase) (F : Frame) : Record where
  meterId := frameSlice F 21 2 ++ frameSlice F 55 24
  meterType := frameSlice F (dc.index + 5) 4
  physTamper := frameSlice F (dc.index + 3) 2
  encTamper := frameSlice F (dc.index + 9) 2
  consumption := frameSlice F (dc.index + 11) 24

/-- EXTRACT: the fields of FRAME, with no check and no record counted (R110). -/
def execExtract (s : State) : Host.Outcome State Fault Refusal :=
  .next ((s.writeRecord (extractFields s.cfg.dcBase s.frame)).complete .ok)

end Sys2Proof.Machine
end

