-- ==== Sys2Proof/Machine/Demodulator.lean ====
section
/-! DEFINITION. The integrator, slicer, correlator and frame check, and the EVAL and CHECK commands
(spec/42_demodulator.md R120 to R137). -/

namespace Sys2Proof.Machine

/-- `v(x) = r(x) − 127` (R120). -/
def component (f : ByteFormat) (x : Byte) : Int :=
  match f with
  | .s8 => x.toInt - sampleBias
  | .u8 => (x.toNat : Int) - sampleBias

/-- `e = v(I)² + v(Q)²`, exact (R121). -/
def sampleEnergy (f : ByteFormat) (iq : Byte × Byte) : Int :=
  component f iq.1 ^ 2 + component f iq.2 ^ 2

/-- `e_0, …, e_{WIN−1}` of the window at alignment `a` (R122). -/
def State.windowEnergies (s : State) (a : Nat) : List Int :=
  (List.range windowLength).map fun j => sampleEnergy s.cfg.byteFormat (s.sampleRead (a + j))

/-- The energies of `n` samples from offset `o` on, in one walk over the memory. -/
def energiesFrom (f : ByteFormat) (resets : Nat) : Nat → Memory → Nat → List Int
  | 0, _, _ => []
  | n + 1, m, o =>
    let m0 := m.skip o
    let m1 := m0.skip (o + 1)
    sampleEnergy f (m0.byteOr resets o, m1.byteOr resets (o + 1)) :: energiesFrom f resets n m1 (o + 2)

/-- `State.windowEnergies` computed in one walk, which is what compiled code runs. -/
def State.windowEnergiesWalk (s : State) (a : Nat) : List Int :=
  energiesFrom s.cfg.byteFormat s.env.resets windowLength s.mem (sampleBase + 2 * a)

theorem Memory.skip_skip (m : Memory) {a b : Nat} (h : a ≤ b) : (m.skip a).skip b = m.skip b := by
  induction m with
  | nil => rfl
  | cons c m ih =>
    obtain ⟨k, v⟩ := c
    by_cases hk : k < a
    · simp [Memory.skip, hk, ih, Nat.lt_of_lt_of_le hk h]
    · simp [Memory.skip, hk]

theorem Memory.byteOr_skip (r : Nat) (m : Memory) {a b : Nat} (h : a ≤ b) :
    (m.skip a).byteOr r b = m.byteOr r b := by
  simp only [Memory.byteOr, Memory.read, Memory.skip_skip m h]

theorem energiesFrom_eq (f : ByteFormat) (r n : Nat) (m : Memory) (o : Nat) :
    energiesFrom f r n m o =
      (List.range n).map fun j => sampleEnergy f (m.byteOr r (o + 2 * j), m.byteOr r (o + 2 * j + 1)) := by
  induction n generalizing m o with
  | zero => rfl
  | succ n ih =>
    rw [List.range_succ_eq_map, List.map_cons, List.map_map]
    simp only [energiesFrom, ih, Memory.skip_skip m (Nat.le_succ o)]
    congr 1
    · simp [Memory.byteOr_skip]
    · refine List.map_congr_left fun j _ => ?_
      simp only [Function.comp, Memory.byteOr_skip r m (show o + 1 ≤ o + 2 + 2 * j by omega),
        Memory.byteOr_skip r m (show o + 1 ≤ o + 2 + 2 * j + 1 by omega)]
      rw [show o + 2 + 2 * j = o + 2 * Nat.succ j by omega]

@[csimp] theorem State.windowEnergies_eq_walk : @State.windowEnergies = @State.windowEnergiesWalk := by
  funext s a
  simp only [State.windowEnergies, State.windowEnergiesWalk, energiesFrom_eq, State.sampleRead, State.byteAt, Nat.mul_add,
    Nat.add_assoc]

/-- The running sums of a sequence, each including its own element, on top of `acc` (R123, D4). -/
def runningSums : Int → List Int → List Int
  | _, [] => []
  | acc, e :: es => (acc + e) :: runningSums (acc + e) es

/-- The three-tap filter `s_n = 2·C[n·SP + SP/2 + 1] − C[n·SP + 1] − C[n·SP + SP + 1]` (R124). -/
def softValue (C : List Int) (n : Nat) : Int :=
  2 * C.getD (n * symbolPeriod + halfSymbol + 1) 0 - C.getD (n * symbolPeriod + 1) 0 -
    C.getD (n * symbolPeriod + symbolPeriod + 1) 0

/-- `b_n`: 1 if positive, else 0 (R128). -/
def hardDecision (soft : Int) : Bool := decide (0 < soft)

/-- The first `n` decisions as one integer, `b_0` most significant (R129). -/
def packDecisions (b : Nat → Bool) : (n : Nat) → BitVec n
  | 0 => 0#0
  | n + 1 => (packDecisions b n).concat (b n)

/-- The decision sequence `F` of an energy sequence (R123 to R129). -/
def decisionsOf (energies : List Int) : Frame :=
  let C := runningSums 0 energies
  packDecisions (fun n => hardDecision (softValue C n)) frameBits

/-- The decision sequence of the window at alignment `a` (R122 to R129). -/
def State.decisions (s : State) (a : Nat) : Frame := decisionsOf (s.windowEnergies a)

/-- `F[95:75]`, frame bits 0 to 20 (R130). -/
def preambleField (F : Frame) : BitVec 21 := F.extractLsb' 75 21

/-- `P = F[74:0]` (R131). -/
def payloadField (F : Frame) : BitVec 75 := F.extractLsb' 0 75

/-- The division of the frame check: the payload by the fixed generator, never DIVS (R132, D24). -/
def frameDivision (F : Frame) : DivideResult := divide (payloadField F).toNat bchPoly

/-- The outcome of a frame whose preamble matched (R132). -/
def DivideResult.checkCode : DivideResult → ResultCode
  | .invalidOperand => .divInvalidOperand
  | .divisorTooLarge => .divDivisorTooLarge
  | .ok r _ _ _ => if r = 0 then .record else .bchFail

/-- `FrameCheck(F)` (R132). -/
def frameCheck (F : Frame) : ResultCode :=
  if preambleField F = preamble then (frameDivision F).checkCode else .noPreamble

/-- Record emission: the fields, and one more record, modulo 2^32 (R133). -/
def State.emitRecord (F : Frame) (s : State) : State :=
  (s.writeRecord (extractFields s.cfg.dcBase F)).writeCount (s.recordCount + 1)

/-- The register updates of R134 for the outcome `code` of frame `F`. -/
def State.applyOutcome (F : Frame) (code : ResultCode) (s : State) : State :=
  match code with
  | .noPreamble => s
  | .record => (s.writeDivision (frameDivision F).registers).emitRecord F
  | _ => s.writeDivision (frameDivision F).registers

/-- The frame check of EVAL and CHECK, with its register updates and the completion (R132 to R134). -/
def State.finishCheck (F : Frame) (s : State) : State :=
  (s.applyOutcome F (frameCheck F)).complete (frameCheck F)

/-- The window at ALIGN lies below NSAMP, on unbounded integers (R122). -/
def State.windowFits (s : State) : Bool := decide (s.align.toNat + windowLength ≤ s.nsamp.toNat)

/-- EVAL (R135). -/
def execEval (s : State) : Host.Outcome State Fault Refusal :=
  if s.windowFits then
    let F := s.decisions s.align.toNat
    .next ((s.writeDec F).finishCheck F)
  else .next (s.complete .windowRange)

/-- CHECK (R136). -/
def execCheck (s : State) : Host.Outcome State Fault Refusal := .next (s.finishCheck s.frame)

end Sys2Proof.Machine
end

