-- ==== Sys2Proof/Machine/Dispatch.lean ====
section
/-! DEFINITION. The completion step of each command: one arm per command (spec/30_encoding.md R61). -/

namespace Sys2Proof.Machine

def exec (i : Instr) (s : State) : Host.Outcome State Fault Refusal :=
  match i with
  | .nop => Sys2Proof.Machine.execNop s
  | .eval => Sys2Proof.Machine.execEval s
  | .check => Sys2Proof.Machine.execCheck s
  | .div => Sys2Proof.Machine.execDiv s
  | .extract => Sys2Proof.Machine.execExtract s
  | .clearCount => Sys2Proof.Machine.execClearCount s

end Sys2Proof.Machine
end

