-- ==== Sys2Proof/Decode.lean ====
section
/-! DEFINITION. The command word CMD32 (spec/30_encoding.md R60 to R63): the decoder, total on every 32-bit word, and the
encoder. -/

namespace Sys2Proof

/-- Why a word is illegal (R62). -/
inductive DecodeError
  /-- A bit of [31:4] is set. -/
  | mustBeZero
  /-- OPC is one of the reserved numbers 0x6 to 0xF. -/
  | reservedOpc (opc : BitVec 4)
  deriving DecidableEq, Repr

/-- The field OPC, bits [3:0] (R60). -/
def opcField (w : Word) : BitVec 4 := w.extractLsb' 0 4

/-- The field MBZ, bits [31:4] (R60). -/
def mbzField (w : Word) : BitVec 28 := w.extractLsb' 4 28

/-- The opcode map (R61). -/
def decodeOpc (opc : BitVec 4) : Except DecodeError Instr :=
  if opc = 0x0#4 then .ok .nop
  else if opc = 0x1#4 then .ok .eval
  else if opc = 0x2#4 then .ok .check
  else if opc = 0x3#4 then .ok .div
  else if opc = 0x4#4 then .ok .extract
  else if opc = 0x5#4 then .ok .clearCount
  else .error (.reservedOpc opc)

/-- The decoder reads the whole word (R63). -/
def decodeWord (w : Word) : Except DecodeError Instr :=
  if mbzField w = 0#28 then decodeOpc (opcField w) else .error .mustBeZero

/-- The command number of R61. -/
def Instr.opc : Instr → BitVec 4
  | .nop => 0x0#4
  | .eval => 0x1#4
  | .check => 0x2#4
  | .div => 0x3#4
  | .extract => 0x4#4
  | .clearCount => 0x5#4

/-- The command word: OPC below 28 zero bits (R60). -/
def encode (i : Instr) : Word := 0#28 ++ i.opc

/-- The instruction the decoder reads from an opcode-table row's bits; bits above `nbits` are 0. A command is one 32-bit
bus value, not bytes in a memory, so there is no byte order to apply (R43, R63; log entry 18). -/
def decodeTableWord (nbits w : Nat) : Option Instr :=
  if nbits ≤ 32 then
    match decodeWord (BitVec.ofNat 32 (w % 2 ^ nbits)) with
    | .ok i => some i
    | .error _ => none
  else none

end Sys2Proof
end

