-- ==== Sys2Proof/Machine/Flags.lean ====
section
/-! DEFINITION. The STATUS register and everything that sets or clears its bits (spec/10_state.md R23, spec/60_exceptions.md
R181, R185), and the interrupt output (R187). -/

namespace Sys2Proof.Machine

/-- The code of RESULT (R181). -/
def ResultCode.code : ResultCode → BitVec 4
  | .none => 0x0#4
  | .ok => 0x1#4
  | .noPreamble => 0x2#4
  | .bchFail => 0x3#4
  | .divInvalidOperand => 0x4#4
  | .divDivisorTooLarge => 0x5#4
  | .divInvalidBit => 0x6#4
  | .record => 0x7#4
  | .windowRange => 0x8#4
  | .illegalCmd => 0x9#4

/-- BUSY: the engine is RUNNING (R23, R153). -/
def Engine.busy : Engine → Bool
  | .idle => false
  | .running _ _ => true

/-- STATUS.BUSY. -/
def State.busy (s : State) : Bool := s.engine.busy

/-- STATUS as a host read sees it; reserved bits read 0 (R23). -/
def State.statusWord (s : State) : Word :=
  0#20 ++ s.result.code ++ 0#4 ++ BitVec.ofBool s.accErr ++ BitVec.ofBool s.busyWrErr ++ BitVec.ofBool s.done ++
    BitVec.ofBool s.busy

/-- A host write of `v` to STATUS: a 1 in bit 1, 2 or 3 clears that bit; every other bit of `v` is ignored (R23, R46). -/
def State.clearStatus (v : Word) (s : State) : State :=
  { s with
    done := s.done && !v.getLsbD 1
    busyWrErr := s.busyWrErr && !v.getLsbD 2
    accErr := s.accErr && !v.getLsbD 3 }

/-- The sticky flag of a write to a locked resource (R47, R185). -/
def State.setBusyWrErr (s : State) : State := { s with busyWrErr := true }

/-- The sticky flag of an access that is not an aligned 32-bit access to a mapped offset (R42, R185). -/
def State.setAccErr (s : State) : State := { s with accErr := true }

/-- The interrupt output, a level, active high, with no state of its own (R187). -/
def State.irq (s : State) : Bool := s.ie && s.done

end Sys2Proof.Machine
end

