-- ==== Sys2Proof/Machine/Operands.lean ====
section
/-! DEFINITION. The register map (spec/10_state.md section 2): offsets, access types, locks, the word a host read sees and
what a host write changes. Every operand of a command is one of these registers or a sample (spec/30_encoding.md R64 to
R69). -/

namespace Sys2Proof.Machine

/-- The byte offset of a register (10_state.md section 2). -/
def Reg.offset : Reg → Nat
  | .ctrl => 0x000
  | .status => 0x004
  | .cmd => 0x008
  | .align => 0x00C
  | .nsamp => 0x010
  | .recordCount => 0x014
  | .recId => 0x018
  | .recInfo => 0x01C
  | .recCons => 0x020
  | .decHi => 0x024
  | .decMid => 0x028
  | .decLo => 0x02C
  | .frameHi => 0x030
  | .frameMid => 0x034
  | .frameLo => 0x038
  | .divdW0 => 0x040
  | .divdW1 => 0x044
  | .divdW2 => 0x048
  | .divdW3 => 0x04C
  | .divs => 0x050
  | .divLen => 0x054
  | .rem => 0x058
  | .quotW0 => 0x060
  | .quotW1 => 0x064
  | .quotW2 => 0x068
  | .quotW3 => 0x06C

/-- The registers in the order of the map. -/
def Reg.all : List Reg :=
  [.ctrl, .status, .cmd, .align, .nsamp, .recordCount, .recId, .recInfo, .recCons, .decHi, .decMid, .decLo, .frameHi,
    .frameMid, .frameLo, .divdW0, .divdW1, .divdW2, .divdW3, .divs, .divLen, .rem, .quotW0, .quotW1, .quotW2, .quotW3]

/-- The register at an offset, if the map has one there (R41). -/
def Reg.at? (o : Nat) : Option Reg := Reg.all.find? fun r => r.offset == o

/-- The registers a host write may not change while BUSY = 1 (R47). -/
def Reg.locked : Reg → Bool
  | .cmd | .align | .nsamp | .frameHi | .frameMid | .frameLo | .divdW0 | .divdW1 | .divdW2 | .divdW3 | .divs => true
  | _ => false

/-- The registers whose access is RO: a host write is ignored and sets no flag (R21). -/
def Reg.readOnly : Reg → Bool
  | .recordCount | .recId | .recInfo | .recCons | .decHi | .decMid | .decLo | .divLen | .rem | .quotW0 | .quotW1
  | .quotW2 | .quotW3 => true
  | _ => false

/-- The word a host read of a register returns: its fields in place, 0 in reserved bits, 0 for CMD (R21 to R35, R67). -/
def State.readReg (s : State) : Reg → Word
  | .ctrl => 0#31 ++ BitVec.ofBool s.ie
  | .status => s.statusWord
  | .cmd => 0
  | .align => s.align
  | .nsamp => 0#16 ++ s.nsamp
  | .recordCount => s.recordCount
  | .recId => 0#6 ++ s.record.meterId
  | .recInfo => 0#24 ++ s.record.encTamper ++ s.record.physTamper ++ s.record.meterType
  | .recCons => 0#8 ++ s.record.consumption
  | .decHi => wordAt s.dec 2
  | .decMid => wordAt s.dec 1
  | .decLo => wordAt s.dec 0
  | .frameHi => wordAt s.frame 2
  | .frameMid => wordAt s.frame 1
  | .frameLo => wordAt s.frame 0
  | .divdW0 => wordAt s.dividend 0
  | .divdW1 => wordAt s.dividend 1
  | .divdW2 => wordAt s.dividend 2
  | .divdW3 => wordAt s.dividend 3
  | .divs => s.divisor
  | .divLen => 0#16 ++ s.division.quotLen ++ s.division.remLen
  | .rem => 0#1 ++ s.division.rem
  | .quotW0 => wordAt s.division.quot 0
  | .quotW1 => wordAt s.division.quot 1
  | .quotW2 => wordAt s.division.quot 2
  | .quotW3 => wordAt s.division.quot 3

/-- NSAMP is write-any-read-legal: it stores `min(v, SAMPLE_CAP)` (R26). -/
def Config.clampSamples (c : Config) (v : Word) : BitVec 16 := BitVec.ofNat 16 (min v.toNat c.sampleCap)

/-- The effect of a host write of `v` that no lock forbids (R46): RW fields take the bits of `v`, RO registers ignore it,
STATUS clears its W1C bits, CMD issues. -/
def State.writeReg (v : Word) (s : State) : Reg → State
  | .ctrl => { s with ie := v.getLsbD 0 }
  | .status => s.clearStatus v
  | .cmd => s.issue v
  | .align => { s with align := v }
  | .nsamp => { s with nsamp := Config.clampSamples s.cfg v }
  | .frameHi => { s with frame := withWord s.frame 2 v }
  | .frameMid => { s with frame := withWord s.frame 1 v }
  | .frameLo => { s with frame := withWord s.frame 0 v }
  | .divdW0 => { s with dividend := withWord s.dividend 0 v }
  | .divdW1 => { s with dividend := withWord s.dividend 1 v }
  | .divdW2 => { s with dividend := withWord s.dividend 2 v }
  | .divdW3 => { s with dividend := withWord s.dividend 3 v }
  | .divs => { s with divisor := v }
  | .recordCount | .recId | .recInfo | .recCons | .decHi | .decMid | .decLo | .divLen | .rem | .quotW0 | .quotW1
  | .quotW2 | .quotW3 => s

end Sys2Proof.Machine
end

