-- ==== Sys2Proof/Machine/Bus.lean ====
section
/-! DEFINITION. The host bus port (spec/20_memory.md R40 to R49): which accesses are performed, what they return and what
they change. -/

namespace Sys2Proof.Machine

/-- The offset of a bus address in the block's window; none where another device is addressed (R40; log entry 8). -/
def Config.windowOffset? (c : Config) (addr : Nat) : Option Nat :=
  if c.base ≤ addr ∧ addr < c.base + windowBytes then some (addr - c.base) else none

/-- The offset is one of the sample memory (R41). -/
def Config.sampleOffset (c : Config) (o : Nat) : Bool :=
  decide (sampleBase ≤ o) && decide (o < sampleBase + 2 * c.sampleCap)

/-- What an access reaches (R41, R42). -/
def Config.target (c : Config) (o : Nat) (width : Width) : Target :=
  if width = .word ∧ o % 4 = 0 then
    match Reg.at? o with
    | some r => .register r
    | none => if Config.sampleOffset c o then .sampleWord o else .ignored
  else .ignored

/-- The value a host read returns (R42, R45). -/
def State.readValue (s : State) (o : Nat) (width : Width) : Word :=
  match Config.target s.cfg o width with
  | .register r => s.readReg r
  | .sampleWord a => s.loadWord a
  | .ignored => 0

/-- The state after a host read: only an ignored access changes it (R42, R45). -/
def State.afterRead (o : Nat) (width : Width) (s : State) : State :=
  match Config.target s.cfg o width with
  | .register _ => s
  | .sampleWord _ => s
  | .ignored => s.setAccErr

/-- The state after a host write (R42, R46, R47): an ignored access sets ACC_ERR only, a write to a locked resource while
BUSY = 1 is lost and sets BUSY_WR_ERR. -/
def State.afterWrite (o : Nat) (width : Width) (v : Word) (s : State) : State :=
  match Config.target s.cfg o width with
  | .register r => if r.locked && s.busy then s.setBusyWrErr else s.writeReg v r
  | .sampleWord a => if s.busy then s.setBusyWrErr else s.storeWord a v
  | .ignored => s.setAccErr

/-- The state after one bus access. -/
def State.afterAccess (a : BusAccess) (s : State) : State :=
  match a with
  | .read addr width =>
    match Config.windowOffset? s.cfg addr with
    | some o => s.afterRead o width
    | none => s
  | .write addr width v =>
    match Config.windowOffset? s.cfg addr with
    | some o => s.afterWrite o width v
    | none => s

/-- The value a bus access returns to the host, if it is a read of the block. -/
def State.accessValue (a : BusAccess) (s : State) : Option Word :=
  match a with
  | .read addr width => (Config.windowOffset? s.cfg addr).map fun o => s.readValue o width
  | .write _ _ _ => none

/-- Record an observed value, newest first (R70). -/
def State.observe (v : Option Word) (s : State) : State :=
  match v with
  | some w => { s with env := { s.env with observed := w :: s.env.observed } }
  | none => s

/-- Set the host events still to come. -/
def State.setInputs (l : List HostEvent) (s : State) : State := { s with env := { s.env with inputs := l } }

/-- The poll is satisfied by the value read (R70). -/
def pollDone (mask expected v : Word) : Bool := v &&& mask == expected

end Sys2Proof.Machine
end

