-- ==== Sys2Proof/Machine/Driver.lean ====
section
/-! DEFINITION. The host: the pending events first, then the reference driver, the Block Scanner
(spec/44_host_scan.md R160 to R170), and its restart after a reset (spec/70_reset_and_hazards.md R210). -/

namespace Sys2Proof.Machine

/-- `N = floor(LB / 2)` (R161). -/
def Driver.samples (d : Driver) : Nat := d.bytes.length / 2

/-- `L = min(BLOCKSIZE, N − b)` (R163). -/
def Driver.blockLength (d : Driver) : Nat := min blockSize (d.samples - d.b)

/-- Sample `k` of the sequence as a half word, I low and Q high; past the end, any value (R161, R163; log entry 12). -/
def Driver.sampleHalf (d : Driver) (k : Nat) : BitVec 16 :=
  if k < d.samples then d.bytes.getD (2 * k + 1) 0 ++ d.bytes.getD (2 * k) 0 else Config.padSample k

/-- The word the block load writes at sample word `m` (R169). -/
def Driver.blockWord (d : Driver) (m : Nat) : Word :=
  d.sampleHalf (d.b + 2 * m + 1) ++ d.sampleHalf (d.b + 2 * m)

/-- The driver at the start of a scan: `run CLEAR_COUNT` comes first (R169). -/
def Driver.start (bytes : List Byte) : Driver where
  bytes := bytes
  p := 0
  b := 0
  phase := .clearCount
  records := []
  earlier := []
  uncounted := 0

/-- The outer loop's test: `N − b ≥ 96·SP + JMP` (R162). -/
def Driver.outerTest (d : Driver) : Driver :=
  if d.b + (frameBits * symbolPeriod + alignmentStep) ≤ d.samples then { d with phase := .loadWord 0 }
  else { d with phase := .readTotal }

/-- The inner loop's test: `L − (p − b) ≥ 96·SP`; when it fails, the next block start is `b + JMP·96` (R162, R165). -/
def Driver.innerTest (d : Driver) : Driver :=
  if d.p + frameBits * symbolPeriod ≤ d.b + d.blockLength then { d with phase := .setAlign }
  else Driver.outerTest { d with b := d.b + alignmentStep * frameBits }

/-- RESULT in a STATUS word (R169). -/
def resultField (v : Word) : BitVec 4 := v.extractLsb' 8 4

/-- The record the driver appends, from the three REC words (R167, R169). -/
def recordOfWords (id info cons : Word) : Record where
  meterId := id.extractLsb' 0 26
  meterType := info.extractLsb' 0 4
  physTamper := info.extractLsb' 4 2
  encTamper := info.extractLsb' 6 2
  consumption := cons.extractLsb' 0 24

/-- The cursor after a record: `p + (96·SP − JMP) + JMP` (R167). -/
def cursorAfterRecord (p : Nat) : Nat := p + (frameBits * symbolPeriod - alignmentStep) + alignmentStep

/-- Append a record and fast-forward (R167). -/
def Driver.addRecord (r : Record) (d : Driver) : Driver :=
  { d with records := d.records ++ [⟨d.p, r⟩], p := cursorAfterRecord d.p }

/-- The driver's next bus access (R169). -/
def Driver.access? (c : Config) (d : Driver) : Option BusAccess :=
  match d.phase with
  | .clearCount => some (.write (c.base + Reg.cmd.offset) .word (encode .clearCount))
  | .awaitClear => some (.read (c.base + Reg.status.offset) .word)
  | .loadWord m => some (.write (c.base + sampleBase + 4 * m) .word (d.blockWord m))
  | .setNsamp => some (.write (c.base + Reg.nsamp.offset) .word (BitVec.ofNat 32 d.blockLength))
  | .setAlign => some (.write (c.base + Reg.align.offset) .word (BitVec.ofNat 32 (d.p - d.b)))
  | .issueEval => some (.write (c.base + Reg.cmd.offset) .word (encode .eval))
  | .awaitEval => some (.read (c.base + Reg.status.offset) .word)
  | .readResult => some (.read (c.base + Reg.status.offset) .word)
  | .readId => some (.read (c.base + Reg.recId.offset) .word)
  | .readInfo _ => some (.read (c.base + Reg.recInfo.offset) .word)
  | .readCons _ _ => some (.read (c.base + Reg.recCons.offset) .word)
  | .readTotal => some (.read (c.base + Reg.recordCount.offset) .word)
  | .finished _ => none

/-- The driver after its access, given the value read (0 for a write): the host computation of R169 up to the next
access. -/
def Driver.after (v : Word) (d : Driver) : Driver :=
  match d.phase with
  | .clearCount => { d with phase := .awaitClear }
  | .awaitClear => if pollDone 1 0 v then d.outerTest else d
  | .loadWord m =>
    if 2 * (m + 1) < d.blockLength then { d with phase := .loadWord (m + 1) } else { d with phase := .setNsamp }
  | .setNsamp => d.innerTest
  | .setAlign => { d with phase := .issueEval }
  | .issueEval => { d with phase := .awaitEval }
  | .awaitEval => if pollDone 1 0 v then { d with phase := .readResult } else d
  | .readResult =>
    if resultField v = ResultCode.record.code then { d with phase := .readId }
    else Driver.innerTest { d with p := d.p + alignmentStep }
  | .readId => { d with phase := .readInfo v }
  | .readInfo id => { d with phase := .readCons id v }
  | .readCons id info => Driver.innerTest (Driver.addRecord (recordOfWords id info v) d)
  | .readTotal => { d with phase := .finished v }
  | .finished _ => d

/-- The scan taken up again after a reset at the saved cursor: RECORD_COUNT is 0, and the block's samples must be written
again, so the driver is back at the outer loop's test with its cursor, its block and its records (R210, R203). -/
def Driver.resume (d : Driver) : Driver :=
  match d.phase with
  | .clearCount | .awaitClear => { d with phase := .clearCount }
  | .loadWord _ | .setNsamp | .setAlign | .issueEval | .awaitEval | .readResult | .readId | .readInfo _ | .readCons _ _
  | .readTotal => Driver.outerTest { d with uncounted := d.records.length }
  | .finished _ => d

/-- The scan started again after a reset; the records already read stay with the host (R210). -/
def Driver.startAgain (d : Driver) : Driver :=
  match d.phase with
  | .finished _ => d
  | .clearCount | .awaitClear | .loadWord _ | .setNsamp | .setAlign | .issueEval | .awaitEval | .readResult | .readId
  | .readInfo _ | .readCons _ _ | .readTotal => { Driver.start d.bytes with earlier := d.earlier ++ d.records }

/-- What the host does about its scan when the block is reset (R210; log entry 19). A finished scan is left as it is. -/
def Driver.restart (how : Restart) (d : Driver) : Driver :=
  match how with
  | .fromStart => d.startAgain
  | .fromCursor => d.resume

/-- Set the reference driver. -/
def State.setDriver (d : Driver) (s : State) : State := { s with env := { s.env with driver := some d } }

/-- One access of the reference driver, if it has one left (R169). -/
def State.driverTurn? (s : State) : Option State :=
  match s.env.driver with
  | none => none
  | some d =>
    match d.access? s.cfg with
    | none => none
    | some a => some ((s.afterAccess a).setDriver (d.after ((s.accessValue a).getD 0)))

/-- The host restarts its scan, if it has one (R210). -/
def State.restartDriver (how : Restart) (s : State) : State :=
  { s with env := { s.env with driver := s.env.driver.map fun d => d.restart how } }

/-- One host event. A poll whose value does not match yet stays pending, and only its last value is observed (R70; log
entry 15). `s` is the state with the event already taken off the list. -/
def State.performEvent (e : HostEvent) (s : State) : State :=
  match e with
  | .access a => (s.afterAccess a).observe (s.accessValue a)
  | .poll addr mask expected =>
    match s.accessValue (.read addr .word) with
    | some v =>
      if pollDone mask expected v then (s.afterAccess (.read addr .word)).observe (some v)
      else (s.afterAccess (.read addr .word)).setInputs (e :: s.env.inputs)
    | none => s
  | .turn => s.driverTurn?.getD s
  | .reset how => s.applyReset.restartDriver how

/-- The host's next step, if it has one: a pending event, else the reference driver (log entry 4). -/
def State.hostTurn? (s : State) : Option State :=
  match s.env.inputs with
  | e :: rest => some ((s.setInputs rest).performEvent e)
  | [] => s.driverTurn?

/-- One host step less before the completion (R152). -/
def State.tick (w : Word) (wait : Nat) (s : State) : State := { s with engine := .running w wait }

end Sys2Proof.Machine
end

