-- ==== Sys2Proof/Machine/Step.lean ====
section
/-! DEFINITION. One step of the system: one host step or one completion step of the engine (spec/20_memory.md R50,
spec/43_control.md R151 to R153). -/

namespace Sys2Proof.Machine

/-- The completion step: the latched word is decoded, and the command, or the completion of an illegal word, runs (R151). -/
def runLatched (w : Word) (s : State) : Host.Outcome State Fault Refusal :=
  match decodeWord w with
  | .ok i => exec i s
  | .error _ => completeIllegal s

/-- One step. A running command completes when its latency has passed, and also when the host has nothing left to do (log
entry 6); until then the host goes first. An idle block waits for the host (log entry 5). -/
def step (s : State) : Host.Outcome State Fault Refusal :=
  match s.engine with
  | .running w 0 => runLatched w s
  | .running w (n + 1) =>
    match (s.tick w n).hostTurn? with
    | some t => .next t
    | none => runLatched w s
  | .idle =>
    match s.hostTurn? with
    | some t => .next t
    | none => .next s

/-- `s` with the command word `w` latched and its completion the very next step, as issue latches it (R150; log
entry 11). -/
def State.withFetchWord (s : State) (nbits w : Nat) : State :=
  { s with engine := .running (BitVec.ofNat 32 (w % 2 ^ nbits)) 0, done := false }

end Sys2Proof.Machine
end

