-- ==== Sys2Proof/Machine/HostAsm.lean ====
section
/-! DEFINITION. The host assembly (spec/30_encoding.md R70, R71) as host events, for a block built with `c`. -/

namespace Sys2Proof.Machine.HostAsm

/-- `wr REG, imm32` (R70). -/
def wr (c : Config) (r : Reg) (v : Word) : HostEvent := .access (.write (c.base + r.offset) .word v)

/-- `rd REG` (R70). -/
def rd (c : Config) (r : Reg) : HostEvent := .access (.read (c.base + r.offset) .word)

/-- `wrs m, imm32` (R70). -/
def wrs (c : Config) (m : Nat) (v : Word) : HostEvent := .access (.write (c.base + sampleBase + 4 * m) .word v)

/-- `rds m` (R70). -/
def rds (c : Config) (m : Nat) : HostEvent := .access (.read (c.base + sampleBase + 4 * m) .word)

/-- `wra off, imm32`, any width (R70). -/
def wra (c : Config) (o : Nat) (width : Width) (v : Word) : HostEvent := .access (.write (c.base + o) width v)

/-- `rda off`, any width (R70). -/
def rda (c : Config) (o : Nat) (width : Width) : HostEvent := .access (.read (c.base + o) width)

/-- `poll REG, mask, val` (R70). -/
def poll (c : Config) (r : Reg) (mask expected : Word) : HostEvent := .poll (c.base + r.offset) mask expected

/-- `cmd X` (R71). -/
def cmd (c : Config) (i : Instr) : List HostEvent := [wr c .cmd (encode i)]

/-- `wait` (R71). -/
def wait (c : Config) : List HostEvent := [poll c .status 0x1 0x0]

/-- `run X` (R71). -/
def run (c : Config) (i : Instr) : List HostEvent := cmd c i ++ wait c

/-- `ack` (R71). -/
def ack (c : Config) : List HostEvent := [wr c .status 0x2]

/-- `clrerr` (R71). -/
def clrerr (c : Config) : List HostEvent := [wr c .status 0xC]

/-- `ldframe F` (R71). -/
def ldframe (c : Config) (F : Frame) : List HostEvent :=
  [wr c .frameHi (wordAt F 2), wr c .frameMid (wordAt F 1), wr c .frameLo (wordAt F 0)]

/-- `lddiv D, G` (R71). -/
def lddiv (c : Config) (D : WidePoly) (G : Word) : List HostEvent :=
  [wr c .divdW0 (wordAt D 0), wr c .divdW1 (wordAt D 1), wr c .divdW2 (wordAt D 2), wr c .divdW3 (wordAt D 3),
    wr c .divs G]

/-- `rdrec` (R71). -/
def rdrec (c : Config) : List HostEvent := [rd c .recId, rd c .recInfo, rd c .recCons]

/-- `rddiv` (R71). -/
def rddiv (c : Config) : List HostEvent :=
  [rd c .divLen, rd c .rem, rd c .quotW0, rd c .quotW1, rd c .quotW2, rd c .quotW3]

end Sys2Proof.Machine.HostAsm
end

