-- ==== Sys2Proof/Safety.lean ====
section
/-! DEFINITION. What counts as a safe run, and the words the statements use: the invariants, what a completed command leaves
unchanged, and the wide registers as a host reads them. -/

namespace Sys2Proof.Machine

/-- What holds of every state a run of a well-built block reaches. -/
structure State.Inv (s : State) : Prop where
  /-- The block was built with legal parameters (00_scope.md section 4). -/
  config : s.cfg.wf = true
  /-- The memory is in its canonical form. -/
  canonical : s.mem.wf = true
  /-- Only bytes of the sample memory are listed (R44). -/
  mapped : s.mem.within s.cfg.sampleCap = true
  /-- NSAMP never passes SAMPLE_CAP (R26). -/
  nsamp : s.nsamp.toNat ≤ s.cfg.sampleCap
  /-- DONE is 0 while a command runs (R150, R151). -/
  doneIdle : s.done = true → s.busy = false
  /-- DONE is 1 only after a completion, so RESULT is then not NONE (R23, R181). -/
  doneRan : s.done = true → s.result ≠ .none
  /-- Code 0x6 is never produced (R86, R181). -/
  noInvalidBit : s.result ≠ .divInvalidBit
  /-- REM_LEN = bitlen(REM) (R35, R85). -/
  remLen : s.division.remLen.toNat = bitlen s.division.rem.toNat
  /-- QUOT_LEN = bitlen(QUOT) (R35, R84). -/
  quotLen : s.division.quotLen.toNat = bitlen s.division.quot.toNat

/-- A step is safe when it goes on, in a state that keeps the invariant (R180: nothing traps, halts or aborts). -/
def SafeStep (s : State) : Prop := ∃ t, step s = .next t ∧ t.Inv

/-- FRAME as a host reads it (R32, R64). -/
def State.hostFrame (s : State) : Frame := s.readReg .frameHi ++ s.readReg .frameMid ++ s.readReg .frameLo

/-- DEC as a host reads it (R31, R64). -/
def State.hostDec (s : State) : Frame := s.readReg .decHi ++ s.readReg .decMid ++ s.readReg .decLo

/-- The dividend as a host reads it (R33, R65). -/
def State.hostDividend (s : State) : WidePoly :=
  s.readReg .divdW3 ++ s.readReg .divdW2 ++ s.readReg .divdW1 ++ s.readReg .divdW0

/-- The quotient as a host reads it (R35, R66). -/
def State.hostQuotient (s : State) : WidePoly :=
  s.readReg .quotW3 ++ s.readReg .quotW2 ++ s.readReg .quotW1 ++ s.readReg .quotW0

/-- The registers of a division's result (R35). -/
def divisionRegs : List Reg := [.divLen, .rem, .quotW0, .quotW1, .quotW2, .quotW3]

/-- The registers of the last record (R28 to R30). -/
def recordRegs : List Reg := [.recId, .recInfo, .recCons]

/-- The registers of the last decision sequence (R31). -/
def decRegs : List Reg := [.decHi, .decMid, .decLo]

/-- The command completed with `code`, and changed nothing but RESULT, BUSY, DONE and the registers `written` (R151):
`s` before, `t` after. -/
structure Completed (code : ResultCode) (written : List Reg) (s t : State) : Prop where
  result : t.result = code
  done : t.done = true
  idle : t.engine = .idle
  busyWrErr : t.busyWrErr = s.busyWrErr
  accErr : t.accErr = s.accErr
  /-- Every register but STATUS and those written reads as before. -/
  regs : ∀ r, r ≠ .status → r ∉ written → t.readReg r = s.readReg r
  /-- Every byte of the sample memory reads as before (R49). -/
  bytes : ∀ a, t.byteAt a = s.byteAt a
  mem : t.mem = s.mem
  cfg : t.cfg = s.cfg
  env : t.env = s.env

/-- REM, QUOT and DIV_LEN hold the division result (R, Q, rem_len, quot_len), as a host reads them (R35, R66, R89). -/
structure HoldsDivision (R Q remLen quotLen : Nat) (t : State) : Prop where
  rem : (t.readReg .rem).toNat = R
  quot : t.hostQuotient.toNat = Q
  len : (t.readReg .divLen).toNat = 256 * quotLen + remLen

/-- REC_ID, REC_INFO and REC_CONS hold the record, as a host reads them (R67, R110). -/
structure HoldsRecord (r : Record) (t : State) : Prop where
  id : t.readReg .recId = r.meterId.setWidth 32
  info : t.readReg .recInfo = (r.encTamper ++ r.physTamper ++ r.meterType).setWidth 32
  cons : t.readReg .recCons = r.consumption.setWidth 32

/-- The registers of `rs` read the same in both states. -/
def SameRegs (rs : List Reg) (s t : State) : Prop := ∀ r ∈ rs, t.readReg r = s.readReg r

/-- The table of R134 for frame `F`: `s` before, `t` after. -/
structure OutcomeUpdates (F : Frame) (s t : State) : Prop where
  noPreamble : frameCheck F = .noPreamble → SameRegs (divisionRegs ++ recordRegs ++ [.recordCount]) s t
  divError : frameCheck F = .divInvalidOperand ∨ frameCheck F = .divDivisorTooLarge →
    (∀ r ∈ divisionRegs, t.readReg r = 0) ∧ SameRegs (recordRegs ++ [.recordCount]) s t
  bchFail : frameCheck F = .bchFail →
    (∃ R Q rl ql, divide (payloadField F).toNat bchPoly = .ok R Q rl ql ∧ R ≠ 0 ∧ HoldsDivision R Q rl ql t) ∧
      SameRegs (recordRegs ++ [.recordCount]) s t
  record : frameCheck F = .record →
    (∃ Q ql, divide (payloadField F).toNat bchPoly = .ok 0 Q 0 ql ∧ HoldsDivision 0 Q 0 ql t) ∧
      HoldsRecord (extractFields s.cfg.dcBase F) t ∧ t.readReg .recordCount = s.readReg .recordCount + 1

/-- `e_j` of the window at ALIGN (R121, R122). -/
def State.energyAt (s : State) (j : Nat) : Int :=
  sampleEnergy s.cfg.byteFormat (s.sampleRead (s.align.toNat + j))

/-- `C[m] = e_0 + … + e_m` of an energy sequence (R123). -/
def prefixSum (e : Nat → Int) (m : Nat) : Int := ∑ j ∈ Finset.range (m + 1), e j

/-- The soft value of R124 over an energy sequence, with SP = 146. -/
def softOf (e : Nat → Int) (n : Nat) : Int :=
  2 * prefixSum e (146 * n + 74) - prefixSum e (146 * n + 1) - prefixSum e (146 * n + 147)

/-- The result codes a command can complete with (the column "produced by" of R181). -/
def Instr.results : Instr → List ResultCode
  | .nop => [.ok]
  | .eval => [.windowRange, .noPreamble, .divInvalidOperand, .divDivisorTooLarge, .bchFail, .record]
  | .check => [.noPreamble, .divInvalidOperand, .divDivisorTooLarge, .bchFail, .record]
  | .div => [.divInvalidOperand, .divDivisorTooLarge, .ok]
  | .extract => [.ok]
  | .clearCount => [.ok]

/-- Where the reference driver is inside a block: the block started (R162), and `p ≥ b` (R166); in the inner loop the
test of R165 holds too. -/
def Driver.phaseInv (d : Driver) : Prop :=
  match d.phase with
  | .clearCount | .awaitClear => d.b = 0 ∧ d.p = 0 ∧ d.records = []
  | .loadWord m => d.b + 14046 ≤ d.samples ∧ d.b ≤ d.p ∧ 2 * m < d.blockLength
  | .setNsamp => d.b + 14046 ≤ d.samples ∧ d.b ≤ d.p
  | .setAlign | .issueEval | .awaitEval | .readResult | .readId | .readInfo _ | .readCons _ _ =>
    d.b + 14046 ≤ d.samples ∧ d.b ≤ d.p ∧ d.p + 14016 ≤ d.b + d.blockLength
  | .readTotal | .finished _ => d.samples < d.b + 14046

/-- What holds of the reference driver at every point of a scan: blocks start at multiples of 2880 (R162), the cursor
is where the phase needs it, and records come out at least 14016 samples apart, in order (R171). -/
structure Driver.Inv (d : Driver) : Prop where
  blockStart : d.b % 2880 = 0
  phase : d.phaseInv
  apart : d.records.Pairwise fun r r' => r.position + 14016 ≤ r'.position
  behind : ∀ r ∈ d.records, r.position + 14016 ≤ d.p
  /-- No more records are left out of RECORD_COUNT than there are (R210). -/
  uncounted : d.uncounted ≤ d.records.length

/-- The records RECORD_COUNT counts: those read since the last reset, modulo 2^32 (R27, R170, R210). -/
def Driver.count (d : Driver) : Word := BitVec.ofNat 32 (d.records.length - d.uncounted)

/-- An event of a host that does nothing but scan, on a block that may be reset. -/
def HostEvent.ofScan : HostEvent → Bool
  | .access _ => false
  | .poll _ _ _ => false
  | .turn => true
  | .reset _ => true

/-- The access the reference driver performs next, if it has one left. -/
def State.driverAccess? (s : State) : Option BusAccess := s.env.driver.bind fun d => d.access? s.cfg

/-- The access the host performs in its next step, if that is one. -/
def State.hostAccess? (s : State) : Option BusAccess :=
  match s.env.inputs with
  | [] => s.driverAccess?
  | .access a :: _ => some a
  | .poll addr _ _ :: _ => some (.read addr .word)
  | .turn :: _ => s.driverAccess?
  | .reset _ :: _ => none

/-- What the engine, RECORD_COUNT and RESULT are at each phase of a scan with driver `d`: RECORD_COUNT is the number of
records read since the last reset, and one more between the completion with RECORD and the reading of REC_CONS. -/
def State.countInv (s : State) (d : Driver) : Prop :=
  match d.phase with
  | .clearCount => s.engine = .idle
  | .awaitClear =>
    (∀ w n, s.engine = .running w n → w = encode .clearCount) ∧ (s.engine = .idle → s.recordCount = 0)
  | .loadWord _ | .setNsamp | .setAlign | .issueEval | .readTotal => s.engine = .idle ∧ s.recordCount = d.count
  | .awaitEval =>
    (∀ w n, s.engine = .running w n → w = encode .eval ∧ s.recordCount = d.count) ∧
      (s.engine = .idle → s.recordCount = if s.result = .record then d.count + 1 else d.count)
  | .readResult => s.engine = .idle ∧ s.recordCount = if s.result = .record then d.count + 1 else d.count
  | .readId | .readInfo _ | .readCons _ _ => s.engine = .idle ∧ s.recordCount = d.count + 1
  | .finished total => total = d.count

/-- What holds at every point of a scan by a host that does nothing else, on a block that may be reset. -/
structure State.ScanInv (s : State) (d : Driver) : Prop where
  host : ∀ e ∈ s.env.inputs, e.ofScan = true
  driver : s.env.driver = some d
  inv : d.Inv
  count : s.countInv d

/-- The energies of a sequence of raw bytes, as sample `k` is bytes `2k` and `2k + 1` (R161). -/
def sequenceEnergy (f : ByteFormat) (bytes : List Byte) (k : Nat) : Int :=
  sampleEnergy f (bytes.getD (2 * k) 0, bytes.getD (2 * k + 1) 0)

end Sys2Proof.Machine
end

