-- ==== Sys2Proof/Certificates/Slice0/Obligations.lean ====
section
/-! DEFINITION. The statements for the provers, from the numbered rules of spec/. -/

open Sys2Proof Sys2Proof.Machine

/-! ### Encodings (spec/30_encoding.md) -/

/-- R63: the decoder is total; each of the six words is its command, every other word is illegal. -/
def Obligations.SixWordsDecodeAndTheRestAreIllegal : Prop :=
  ∀ w : Word,
    (w = 0x00000000#32 → decodeWord w = .ok .nop) ∧ (w = 0x00000001#32 → decodeWord w = .ok .eval) ∧
    (w = 0x00000002#32 → decodeWord w = .ok .check) ∧ (w = 0x00000003#32 → decodeWord w = .ok .div) ∧
    (w = 0x00000004#32 → decodeWord w = .ok .extract) ∧ (w = 0x00000005#32 → decodeWord w = .ok .clearCount) ∧
    (5 < w.toNat → ∃ e, decodeWord w = .error e)

/-- Some words of R61 and R156, written out from the spec's encodings: a sanity statement. -/
def Obligations.SpecWordsDecode : Prop :=
  decodeWord 0b00000000000000000000000000000001#32 = .ok .eval ∧
  decodeWord 0b00000000000000000000000000000011#32 = .ok .div ∧
  decodeWord 0b00000000000000000000000000000101#32 = .ok .clearCount ∧
  decodeWord 0x00000011#32 = .error .mustBeZero ∧ decodeWord 0xFFFFFFFF#32 = .error .mustBeZero ∧
  decodeWord 0x00000006#32 = .error (.reservedOpc 6)

/-- Decoding and encoding agree in both directions, for every command and every word. -/
def Obligations.DecodeAndEncodeAgree : Prop :=
  ∀ (w : Word) (i : Instr), i.wf = true → (decodeWord w = .ok i ↔ w = encode i)

/-! ### The step (spec/43_control.md) -/

/-- The completion step runs the latched word: the command it decodes to, or, for a word that is illegal, the completion with
ILLEGAL_CMD. Until the latency has passed the host goes first, and with nothing left for the host to do the completion is
the only step; an idle block only takes host steps. The latency count and the idle step are the model's (log entries 2, 5
and 6). -/
def Obligations.StepRunsTheLatchedCommand : Prop :=
  ∀ (s : State) (w : Word) (n : Nat),
    (s.engine = .running w 0 → step s = runLatched w s) ∧
    (s.engine = .running w (n + 1) → (s.tick w n).hostTurn? = none → step s = runLatched w s) ∧
    (∀ t, s.engine = .running w (n + 1) → (s.tick w n).hostTurn? = some t → step s = .next t) ∧
    (∀ t, s.engine = .idle → s.hostTurn? = some t → step s = .next t) ∧
    (s.engine = .idle → s.hostTurn? = none → step s = .next s) ∧
    (∀ i : Instr, decodeWord w = .ok i → runLatched w s = exec i s) ∧
    (∀ e, decodeWord w = .error e → ∃ t, runLatched w s = .next t ∧ Completed .illegalCmd [] s t)

/-- R154. -/
def Obligations.NopChangesOnlyStatus : Prop :=
  (∀ s : State, ∃ t, exec .nop s = .next t ∧ Completed .ok [] s t) ∧
  (∀ (w : Word) (i : Instr), opcField w = 0 → decodeWord w = .ok i → i = .nop ∧ w = 0) ∧
  (∀ s : State, s.busy = true → s.afterWrite (Reg.offset .cmd) .word 0 = s.setBusyWrErr) ∧
  (∃ t, runLatched 0 (State.reset.afterWrite (Reg.offset .cmd) .word 0) = .next t ∧ t.readReg .status = 0x00000102)

/-- R155. -/
def Obligations.ClearCountZeroesTheCount : Prop :=
  ∀ s : State, ∃ t, exec .clearCount s = .next t ∧ Completed .ok [.recordCount] s t ∧ t.readReg .recordCount = 0 ∧
    (s.readReg .recordCount = 0 → ∀ r, r ≠ .status → t.readReg r = s.readReg r)

/-- R156. -/
def Obligations.IllegalWordCompletesWithIllegalCmd : Prop :=
  (∀ w : Word, (6 ≤ (w.extractLsb' 0 4).toNat ∨ w.extractLsb' 4 28 ≠ 0) ↔ ∃ e, decodeWord w = .error e) ∧
  (∀ (s : State) (w : Word), (∃ e, decodeWord w = .error e) →
    ∃ t, runLatched w s = .next t ∧ Completed .illegalCmd [] s t) ∧
  (∃ t, runLatched 7 (State.reset.afterWrite (Reg.offset .cmd) .word 7) = .next t ∧ t.readReg .status = 0x00000902)

/-- R150: issue latches any word, sets BUSY, clears DONE and changes no other register; while BUSY = 1 it is refused. -/
def Obligations.IssueLatchesTheWord : Prop :=
  ∀ (s : State) (w : Word),
    (s.busy = false → ∃ t, s.afterWrite (Reg.offset .cmd) .word w = t ∧ (∃ n, t.engine = .running w n) ∧ t.busy = true ∧
      t.done = false ∧ t.result = s.result ∧ t.busyWrErr = s.busyWrErr ∧ t.accErr = s.accErr ∧
      (∀ r, r ≠ .status → t.readReg r = s.readReg r) ∧ t.mem = s.mem ∧ ∀ a, t.byteAt a = s.byteAt a) ∧
    (s.busy = true → s.afterWrite (Reg.offset .cmd) .word w = s.setBusyWrErr)

/-- A command completes within the latency its issue drew, whatever the host does meanwhile, unless a reset abandons it: after
at most that many steps the same word is still latched, and the next step is its completion, which leaves the engine idle
with DONE = 1, or the reset input, which leaves it idle with DONE = 0. The count is the model's form of R152 (log entry 2),
and so is the completion with latency left when the host has nothing to do (log entry 6). -/
def Obligations.CommandCompletesWithinItsLatency : Prop :=
  ∀ (s : State) (w : Word) (n : Nat), s.engine = .running w n →
    ∃ k ≤ n, ∃ (u t : State) (m : Nat), core.run k s = .next u ∧ u.engine = .running w m ∧ step u = .next t ∧
      t.engine = .idle ∧
      ((runLatched w u = .next t ∧ t.done = true) ∨ (∃ how rest, u.env.inputs = .reset how :: rest ∧ t.done = false))

/-- The registers do not depend on the latency: a host that waits by polling sees one outcome, for every latency. -/
def Obligations.LatencyDoesNotChangeTheResult : Prop :=
  ∀ (s : State) (w : Word) (n : Nat), s.engine = .running w n → s.env.inputs = HostAsm.wait s.cfg →
    ∃ t : State, core.run (n + 2) s = .next t ∧ core.run 2 { s with engine := .running w 0 } = .next t ∧
      t.engine = .idle ∧ t.done = true

/-! ### The divider (spec/40_divider.md) -/

/-- R81, R82, R87: the two error results and their order. -/
def Obligations.DivideRefusesBadOperands : Prop :=
  ∀ D G : Nat,
    (divide D G = .invalidOperand ↔ D = 0 ∨ G = 0) ∧
    (divide D G = .divisorTooLarge ↔ D ≠ 0 ∧ G ≠ 0 ∧ bitlen D < bitlen G) ∧
    ((∃ R Q rl ql, divide D G = .ok R Q rl ql) ↔ D ≠ 0 ∧ G ≠ 0 ∧ bitlen G ≤ bitlen D)

/-- R84 and R85: the lengths of the quotient and the remainder. -/
def Obligations.DivideLengths : Prop :=
  ∀ D G R Q rl ql : Nat, divide D G = .ok R Q rl ql →
    ql = bitlen D - bitlen G + 1 ∧ 1 ≤ ql ∧ ql ≤ bitlen D ∧ bitlen Q = ql ∧
    rl = bitlen R ∧ rl ≤ bitlen G - 1 ∧ R < 2 ^ (bitlen G - 1)

/-- R88: the result is the quotient and remainder over GF(2); a nonzero multiple divides exactly, and a single flipped bit
of a multiple of BCH_POLY does not. -/
def Obligations.DivideIsLongDivision : Prop :=
  (∀ D G R Q rl ql : Nat, divide D G = .ok R Q rl ql →
    D = clmul Q G ^^^ R ∧ bitlen R < bitlen G ∧ (R = 0 ↔ ∃ M, D = clmul M G)) ∧
  (∀ M G : Nat, M ≠ 0 → G ≠ 0 → ∃ Q ql, divide (clmul M G) G = .ok 0 Q 0 ql) ∧
  (∀ M k R Q rl ql : Nat, divide (clmul M bchPoly ^^^ 2 ^ k) bchPoly = .ok R Q rl ql → R ≠ 0)

/-- R89: DIV, with its corner cases and its worked example. -/
def Obligations.DivCommand : Prop :=
  ∀ s : State, ∃ t, exec .div s = .next t ∧ Completed t.result divisionRegs s t ∧
    (s.hostDividend = 0 ∨ s.readReg .divs = 0 →
      t.result = .divInvalidOperand ∧ ∀ r ∈ divisionRegs, t.readReg r = 0) ∧
    (s.hostDividend ≠ 0 → s.readReg .divs ≠ 0 →
      bitlen s.hostDividend.toNat < bitlen (s.readReg .divs).toNat →
      t.result = .divDivisorTooLarge ∧ ∀ r ∈ divisionRegs, t.readReg r = 0) ∧
    (∀ R Q rl ql, divide s.hostDividend.toNat (s.readReg .divs).toNat = .ok R Q rl ql →
      t.result = .ok ∧ HoldsDivision R Q rl ql t ∧ rl ≤ 31 ∧ ql ≤ 128) ∧
    (s.hostDividend = 0xB7B1D → s.readReg .divs = 0x16F63 → t.result = .ok ∧ HoldsDivision 5 8 3 4 t) ∧
    (s.readReg .divs = 1 → s.hostDividend ≠ 0 →
      HoldsDivision 0 s.hostDividend.toNat 0 (bitlen s.hostDividend.toNat) t) ∧
    (s.hostDividend.toNat = (s.readReg .divs).toNat → s.hostDividend ≠ 0 → HoldsDivision 0 1 0 1 t) ∧
    (bitlen s.hostDividend.toNat = bitlen (s.readReg .divs).toNat → s.hostDividend ≠ 0 →
      HoldsDivision (s.hostDividend.toNat ^^^ (s.readReg .divs).toNat) 1
        (bitlen (s.hostDividend.toNat ^^^ (s.readReg .divs).toNat)) 1 t) ∧
    (∃ u, exec .div t = .next u ∧ u.result = t.result ∧ SameRegs divisionRegs t u)

/-! ### The extractor (spec/41_field_extractor.md) -/

/-- R101: a slice is the unsigned number its frame bits write, most significant first. -/
def Obligations.SliceIsMsbFirst : Prop :=
  ∀ (F : Frame) (a w : Nat), a + w ≤ 96 →
    frameSlice F a w = F.extractLsb' (96 - a - w) w ∧
    (frameSlice F a w).toNat = ∑ k ∈ Finset.range w, (F.getMsbD (a + k)).toNat * 2 ^ (w - 1 - k)

/-- R108: with DC_BASE = 20 the fields tile frame bits 21 to 78; with 21 they stand one bit later, frame bit 23 is not
extracted, and frame bit 55 is shared by consumption and meter_id. -/
def Obligations.FieldsTileTheFrame : Prop :=
  ∀ F : Frame,
    (let r := extractFields .dc20 F
     F.extractLsb' 17 58 = r.meterId.extractLsb' 24 2 ++ r.physTamper ++ r.meterType ++ r.encTamper ++ r.consumption ++
      r.meterId.extractLsb' 0 24) ∧
    (let r := extractFields .dc21 F
     F.extractLsb' 40 32 = r.physTamper ++ r.meterType ++ r.encTamper ++ r.consumption ∧
      r.meterId = F.extractLsb' 73 2 ++ F.extractLsb' 17 24 ∧
      r.consumption.getLsbD 0 = F.getMsbD 55 ∧ r.meterId.getLsbD 23 = F.getMsbD 55 ∧
      extractFields .dc21 (F ^^^ BitVec.twoPow 96 72) = r)

/-- R110: EXTRACT, for both legal DC_BASE values, with its corner cases. -/
def Obligations.ExtractCommand : Prop :=
  (∀ s : State, ∃ t, exec .extract s = .next t ∧ Completed .ok recordRegs s t ∧
    t.readReg .recId = (s.hostFrame.extractLsb' 73 2 ++ s.hostFrame.extractLsb' 17 24).setWidth 32 ∧
    (s.cfg.dcBase = .dc20 →
      t.readReg .recInfo =
        (s.hostFrame.extractLsb' 65 2 ++ s.hostFrame.extractLsb' 71 2 ++ s.hostFrame.extractLsb' 67 4).setWidth 32 ∧
      t.readReg .recCons = (s.hostFrame.extractLsb' 41 24).setWidth 32) ∧
    (s.cfg.dcBase = .dc21 →
      t.readReg .recInfo =
        (s.hostFrame.extractLsb' 64 2 ++ s.hostFrame.extractLsb' 70 2 ++ s.hostFrame.extractLsb' 66 4).setWidth 32 ∧
      t.readReg .recCons = (s.hostFrame.extractLsb' 40 24).setWidth 32) ∧
    (s.hostFrame = 0 → ∀ r ∈ recordRegs, t.readReg r = 0) ∧
    (s.hostFrame = BitVec.allOnes 96 →
      t.readReg .recId = 0x03FFFFFF ∧ t.readReg .recInfo = 0xFF ∧ t.readReg .recCons = 0x00FFFFFF)) ∧
  (∀ s u : State, s.cfg = u.cfg → s.hostFrame.extractLsb' 17 58 = u.hostFrame.extractLsb' 17 58 →
    ∃ t v, exec .extract s = .next t ∧ exec .extract u = .next v ∧ SameRegs recordRegs t v)

/-! ### The demodulator (spec/42_demodulator.md) -/

/-- R120 and R121: the component of a byte under each format, its range, and the energy. -/
def Obligations.ComponentsAndEnergies : Prop :=
  ∀ x y : Byte,
    component .s8 x = (x.toNat : Int) - 256 * (x.getLsbD 7).toNat - 127 ∧
    component .u8 x = (x.toNat : Int) - 127 ∧
    -255 ≤ component .s8 x ∧ component .s8 x ≤ 0 ∧ -127 ≤ component .u8 x ∧ component .u8 x ≤ 128 ∧
    (∀ f, sampleEnergy f (x, y) = component f x * component f x + component f y * component f y) ∧
    0 ≤ sampleEnergy .s8 (x, y) ∧ sampleEnergy .s8 (x, y) ≤ 130050 ∧
    0 ≤ sampleEnergy .u8 (x, y) ∧ sampleEnergy .u8 (x, y) ≤ 32768

/-- R123, R124, R128, R129: when the window fits, DEC holds the 96 hard decisions of the three-tap filter over the inclusive
running sums, frame bit n being decision n. -/
def Obligations.EvalDecidesByTheFilter : Prop :=
  ∀ s : State, s.align.toNat + 14018 ≤ s.nsamp.toNat →
    ∃ t, exec .eval s = .next t ∧ ∀ n < 96, t.hostDec.getMsbD n = decide (0 < softOf s.energyAt n)

/-- R125: the half-symbol form of the machine's soft values, for every energy sequence of a window; its first two elements have
no effect. -/
def Obligations.SoftValueIsEarlyMinusLate : Prop :=
  ∀ (es : List Int) (n : Nat), es.length = 14018 → n < 96 →
    softValue (runningSums 0 es) n =
      ∑ j ∈ Finset.range 73, es.getD (146 * n + 2 + j) 0 - ∑ j ∈ Finset.range 73, es.getD (146 * n + 75 + j) 0

/-- R126: the widths, under either byte format. -/
def Obligations.EnergiesAndSumsFitTheirWidths : Prop :=
  ∀ s : State,
    (∀ j, 0 ≤ s.energyAt j ∧ s.energyAt j ≤ 130050 ∧ s.energyAt j < 2 ^ 17) ∧
    (∀ n, 0 ≤ ∑ j ∈ Finset.range 73, s.energyAt (n + j) ∧ ∑ j ∈ Finset.range 73, s.energyAt (n + j) ≤ 9493650 ∧
      ∑ j ∈ Finset.range 73, s.energyAt (n + j) < 2 ^ 24) ∧
    (∀ n, -9493650 ≤ softOf s.energyAt n ∧ softOf s.energyAt n ≤ 9493650 ∧ -2 ^ 24 ≤ softOf s.energyAt n ∧
      softOf s.energyAt n < 2 ^ 24) ∧
    (∀ m < 14018, 0 ≤ prefixSum s.energyAt m ∧ prefixSum s.energyAt m ≤ 1823040900 ∧ prefixSum s.energyAt m < 2 ^ 31)

/-- A window whose samples all have one energy gives DEC = 0 and NO_PREAMBLE, and changes no other result register. -/
def Obligations.EqualSamplesGiveNoPreamble : Prop :=
  ∀ (s : State) (e : Int), s.align.toNat + 14018 ≤ s.nsamp.toNat → (∀ j < 14018, s.energyAt j = e) →
    ∃ t, exec .eval s = .next t ∧ Completed .noPreamble decRegs s t ∧ t.hostDec = 0

/-- The first two samples of a window never matter: states alike in everything else complete EVAL with the same result and
registers. -/
def Obligations.FirstTwoSamplesDoNotMatter : Prop :=
  ∀ (s : State) (m : Memory) (r : Nat),
    (∀ a, sampleBase + 2 * (s.align.toNat + 2) ≤ a → a < sampleBase + 2 * (s.align.toNat + 14018) →
      m.byteOr r a = s.byteAt a) →
    ∃ t u, exec .eval s = .next t ∧ exec .eval { s with mem := m, env := { s.env with resets := r } } = .next u ∧
      t.result = u.result ∧ ∀ q, t.readReg q = u.readReg q

/-- R132, by R88: the outcome of the frame check in terms of the preamble, the payload and multiples of the generator. -/
def Obligations.FrameCheckOutcomes : Prop :=
  ∀ F : Frame,
    (frameCheck F = .noPreamble ↔ F.extractLsb' 75 21 ≠ 0x1F2A60#21) ∧
    (frameCheck F = .divInvalidOperand ↔ F.extractLsb' 75 21 = 0x1F2A60#21 ∧ (F.extractLsb' 0 75).toNat = 0) ∧
    (frameCheck F = .divDivisorTooLarge ↔
      F.extractLsb' 75 21 = 0x1F2A60#21 ∧ 1 ≤ (F.extractLsb' 0 75).toNat ∧ (F.extractLsb' 0 75).toNat < 2 ^ 16) ∧
    (frameCheck F = .bchFail ↔
      F.extractLsb' 75 21 = 0x1F2A60#21 ∧ 2 ^ 16 ≤ (F.extractLsb' 0 75).toNat ∧
        ¬∃ M, (F.extractLsb' 0 75).toNat = clmul M 0x16F63) ∧
    (frameCheck F = .record ↔
      F.extractLsb' 75 21 = 0x1F2A60#21 ∧ (F.extractLsb' 0 75).toNat ≠ 0 ∧
        ∃ M, (F.extractLsb' 0 75).toNat = clmul M 0x16F63)

/-- CHECK: the outcome of the frame check of FRAME and the register updates of R134; it reads no sample and never writes
DEC. -/
def Obligations.CheckCommand : Prop :=
  ∀ s : State, ∃ t, exec .check s = .next t ∧
    Completed (frameCheck s.hostFrame) (divisionRegs ++ recordRegs ++ [.recordCount]) s t ∧
    OutcomeUpdates s.hostFrame s t

/-- EVAL when the window fits: DEC takes the decisions, then the frame check and the register updates of R134. -/
def Obligations.EvalCommand : Prop :=
  ∀ s : State, s.align.toNat + 14018 ≤ s.nsamp.toNat →
    ∃ t, exec .eval s = .next t ∧
      Completed (frameCheck t.hostDec) (decRegs ++ divisionRegs ++ recordRegs ++ [.recordCount]) s t ∧
      t.hostDec = s.decisions s.align.toNat ∧ OutcomeUpdates t.hostDec s t

/-- R122: a window that does not fit below NSAMP, on unbounded integers, ends with WINDOW_RANGE and no other effect; the
sample memory is not read. -/
def Obligations.WindowPastNsampIsWindowRange : Prop :=
  ∀ (s : State) (m : Memory), s.nsamp.toNat < s.align.toNat + 14018 →
    ∃ t, exec .eval s = .next t ∧ Completed .windowRange [] s t ∧ exec .eval { s with mem := m } = .next { t with mem := m }

/-- EVAL and CHECK use the fixed generator: what DIVS holds changes nothing they do. -/
def Obligations.FrameCheckIgnoresDivs : Prop :=
  ∀ (s : State) (g : Word),
    (∃ t, exec .check s = .next t ∧ exec .check { s with divisor := g } = .next { t with divisor := g }) ∧
    (∃ t, exec .eval s = .next t ∧ exec .eval { s with divisor := g } = .next { t with divisor := g })

/-- R181: each command completes with a code of its own list, and the codes have the numbers of the table. -/
def Obligations.CommandsProduceTheirCodes : Prop :=
  (∀ (i : Instr) (s : State), ∃ t, exec i s = .next t ∧ t.result ∈ Instr.results i ∧
    t.readReg .status = (s.readReg .status &&& 0xC) ||| 0x2 ||| (t.result.code.setWidth 32 <<< 8)) ∧
  (∀ i : Instr, ResultCode.none ∉ Instr.results i ∧ ResultCode.divInvalidBit ∉ Instr.results i) ∧
  [ResultCode.none, .ok, .noPreamble, .bchFail, .divInvalidOperand, .divDivisorTooLarge, .divInvalidBit, .record,
    .windowRange, .illegalCmd].map (fun c => c.code.toNat) = [0, 1, 2, 3, 4, 5, 6, 7, 8, 9] ∧
  State.reset.result = .none

/-! ### The bus (spec/20_memory.md, spec/10_state.md) -/

/-- R41 and R42: exactly the aligned 32-bit accesses to mapped offsets are performed; any other reads 0, changes only
ACC_ERR and sets it. -/
def Obligations.OtherAccessesOnlySetAccErr : Prop :=
  ∀ (s : State) (o : Nat) (width : Width) (v : Word),
    ((width ≠ .word ∨ o % 4 ≠ 0 ∨ o = 0x3C ∨ o = 0x5C ∨ (0x70 ≤ o ∧ o < 0x10000) ∨ 0x10000 + 2 * s.cfg.sampleCap ≤ o) →
      s.readValue o width = 0 ∧ s.afterRead o width = { s with accErr := true } ∧
      s.afterWrite o width v = { s with accErr := true }) ∧
    (width = .word → o % 4 = 0 → o < 0x70 → o ≠ 0x3C → o ≠ 0x5C →
      ∃ r : Reg, r.offset = o ∧ s.readValue o width = s.readReg r ∧
        (r.locked = false ∨ s.busy = false → s.afterWrite o width v = s.writeReg v r)) ∧
    (width = .word → o % 4 = 0 → 0x10000 ≤ o → o < 0x10000 + 2 * s.cfg.sampleCap →
      s.readValue o width = s.loadWord o ∧ (s.busy = false → s.afterWrite o width v = s.storeWord o v))

/-- R45: a read of any register or sample word returns its value and changes no state, whether or not a command runs. -/
def Obligations.ReadsHaveNoSideEffects : Prop :=
  ∀ s : State,
    (∀ r : Reg, s.afterRead r.offset .word = s ∧ s.readValue r.offset .word = s.readReg r) ∧
    (∀ m, 2 * m < s.cfg.sampleCap → s.afterRead (0x10000 + 4 * m) .word = s ∧
      s.readValue (0x10000 + 4 * m) .word = s.loadWord (0x10000 + 4 * m)) ∧
    s.readValue (Reg.offset .cmd) .word = 0 ∧
    s.readReg .ctrl &&& 0xFFFFFFFE = 0 ∧ s.readReg .status &&& 0xFFFFF0F0 = 0 ∧ s.readReg .nsamp &&& 0xFFFF0000 = 0 ∧
    s.readReg .recId &&& 0xFC000000 = 0 ∧ s.readReg .recInfo &&& 0xFFFFFF00 = 0 ∧ s.readReg .recCons &&& 0xFF000000 = 0 ∧
    s.readReg .divLen &&& 0xFFFF0000 = 0 ∧ s.readReg .rem &&& 0x80000000 = 0

/-- R47: while BUSY = 1 a write to a locked resource is lost and sets BUSY_WR_ERR; CTRL and STATUS are never locked, reads
are never refused, and an ignored access sets ACC_ERR only. -/
def Obligations.LockedWritesAreLost : Prop :=
  ∀ (s : State) (v : Word), s.busy = true →
    (∀ r ∈ [Reg.cmd, .align, .nsamp, .frameHi, .frameMid, .frameLo, .divdW0, .divdW1, .divdW2, .divdW3, .divs],
      s.afterWrite r.offset .word v = { s with busyWrErr := true }) ∧
    (∀ m, 2 * m < s.cfg.sampleCap → s.afterWrite (0x10000 + 4 * m) .word v = { s with busyWrErr := true }) ∧
    s.afterWrite (Reg.offset .ctrl) .word v = { s with ie := v.getLsbD 0 } ∧
    s.afterWrite (Reg.offset .status) .word v = s.clearStatus v ∧
    (∀ r : Reg, s.readValue r.offset .word = s.readReg r) ∧
    (∀ o width, Config.target s.cfg o width = .ignored → s.afterWrite o width v = { s with accErr := true })

/-- R46: what a host write does when no lock forbids it, register by register, and what it leaves unchanged. -/
def Obligations.WritesTakeEffect : Prop :=
  ∀ (s : State) (v : Word), s.cfg.wf = true →
    (∃ t, s.afterWrite (Reg.offset .ctrl) .word v = t ∧ t.readReg .ctrl = v &&& 1 ∧ t.mem = s.mem ∧
      ∀ q, q ≠ .ctrl → t.readReg q = s.readReg q) ∧
    (∃ t, s.afterWrite (Reg.offset .status) .word v = t ∧ t.readReg .status = s.readReg .status &&& ~~~(v &&& 0xE) ∧
      t.mem = s.mem ∧ ∀ q, q ≠ .status → t.readReg q = s.readReg q) ∧
    (∀ r : Reg, r.readOnly = true → s.afterWrite r.offset .word v = s) ∧
    (s.busy = false →
      (∀ r ∈ [Reg.align, .frameHi, .frameMid, .frameLo, .divdW0, .divdW1, .divdW2, .divdW3, .divs],
        ∃ t, s.afterWrite r.offset .word v = t ∧ t.readReg r = v ∧ t.mem = s.mem ∧
          ∀ q, q ≠ r → t.readReg q = s.readReg q) ∧
      (∃ t, s.afterWrite (Reg.offset .nsamp) .word v = t ∧ (t.readReg .nsamp).toNat = min v.toNat s.cfg.sampleCap ∧
        t.mem = s.mem ∧ ∀ q, q ≠ .nsamp → t.readReg q = s.readReg q) ∧
      (∃ n, (s.afterWrite (Reg.offset .cmd) .word v).engine = .running v n) ∧
      (∀ m, 2 * m + 1 < s.cfg.sampleCap →
        ∃ t, s.afterWrite (0x10000 + 4 * m) .word v = t ∧
          t.sampleRead (2 * m) = (v.extractLsb' 0 8, v.extractLsb' 8 8) ∧
          t.sampleRead (2 * m + 1) = (v.extractLsb' 16 8, v.extractLsb' 24 8) ∧
          (∀ q, t.readReg q = s.readReg q) ∧ ∀ k, k ≠ 2 * m → k ≠ 2 * m + 1 → t.sampleRead k = s.sampleRead k))

/-- R44 and R43: a sample word holds samples 2m and 2m + 1, I before Q, low byte first; a write changes exactly its four
bytes and reads back. -/
def Obligations.SampleWordsHoldTwoSamples : Prop :=
  ∀ (s : State) (m : Nat) (v : Word), 2 * m + 1 < s.cfg.sampleCap →
    s.readValue (0x10000 + 4 * m) .word =
      (s.sampleRead (2 * m + 1)).2 ++ (s.sampleRead (2 * m + 1)).1 ++ (s.sampleRead (2 * m)).2 ++ (s.sampleRead (2 * m)).1 ∧
    (s.busy = false →
      ∃ t, s.afterWrite (0x10000 + 4 * m) .word v = t ∧ t.readValue (0x10000 + 4 * m) .word = v ∧
        ∀ a, (a < 0x10000 + 4 * m ∨ 0x10000 + 4 * m + 4 ≤ a) → t.byteAt a = s.byteAt a)

/-- R185 and R186: one access sets at most one of the two sticky flags; a set flag stays unless the host writes 1 to it; no
access but a write to STATUS or CMD changes DONE, none but a write to CMD changes BUSY, and none changes RESULT. -/
def Obligations.BusErrorFlagsAreSticky : Prop :=
  ∀ (s : State) (a : BusAccess),
    let t := s.afterAccess a
    ¬(s.accErr = false ∧ t.accErr = true ∧ s.busyWrErr = false ∧ t.busyWrErr = true) ∧
    (s.accErr = true → t.accErr = false →
      ∃ v : Word, a = .write (s.cfg.base + 4) .word v ∧ v.getLsbD 3 = true) ∧
    (s.busyWrErr = true → t.busyWrErr = false →
      ∃ v : Word, a = .write (s.cfg.base + 4) .word v ∧ v.getLsbD 2 = true) ∧
    (t.done ≠ s.done → ∃ v : Word, a = .write (s.cfg.base + 4) .word v ∨ a = .write (s.cfg.base + 8) .word v) ∧
    (t.busy ≠ s.busy → ∃ v : Word, a = .write (s.cfg.base + 8) .word v ∧ s.busy = false) ∧
    t.result = s.result

/-- R187: the interrupt output is CTRL.IE and STATUS.DONE, and when it rises and falls. -/
def Obligations.IrqFollowsDoneAndEnable : Prop :=
  ∀ s : State,
    (s.irq = true ↔ (s.readReg .ctrl).getLsbD 0 = true ∧ (s.readReg .status).getLsbD 1 = true) ∧
    (∀ w : Word, ∃ t, runLatched w s = .next t ∧ t.irq = s.ie) ∧
    (s.done = true → (s.afterWrite (Reg.offset .ctrl) .word 1).irq = true) ∧
    (s.afterWrite (Reg.offset .ctrl) .word 0).irq = false ∧
    (s.afterWrite (Reg.offset .status) .word 2).irq = false ∧
    (∀ w : Word, s.busy = false → (s.afterWrite (Reg.offset .cmd) .word w).irq = false) ∧
    s.applyReset.irq = false ∧ s.setAccErr.irq = s.irq ∧ s.setBusyWrErr.irq = s.irq

/-- R204: a step that leaves a command running changes no result register, no operand, no sample and no RESULT. -/
def Obligations.RunningCommandShowsOldResults : Prop :=
  ∀ s t : State, s.busy = true → step s = .next t → t.busy = true →
    t.result = s.result ∧ (∀ r, r ≠ .ctrl → r ≠ .status → t.readReg r = s.readReg r) ∧ t.mem = s.mem ∧
      (∀ a, t.byteAt a = s.byteAt a) ∧ (∃ w n k, s.engine = .running w n ∧ t.engine = .running w k)

/-! ### Whole-machine rules -/

/-- RECORD_COUNT goes up by one exactly when EVAL or CHECK completes with RECORD, and becomes 0 by CLEAR_COUNT or reset
only (R27). The step relation with its host events is the model's (log entries 2 and 4). -/
def Obligations.RecordCountRule : Prop :=
  (∀ s t : State, step s = .next t →
    t.recordCount = s.recordCount ∨
    (∃ w n, s.engine = .running w n ∧ (decodeWord w = .ok .eval ∨ decodeWord w = .ok .check) ∧ t.engine = .idle ∧
      t.result = .record ∧ t.recordCount = s.recordCount + 1) ∨
    (∃ w n, s.engine = .running w n ∧ decodeWord w = .ok .clearCount ∧ t.engine = .idle ∧ t.recordCount = 0) ∨
    (∃ how rest, s.env.inputs = .reset how :: rest ∧ t.recordCount = 0)) ∧
  (∀ (s : State) (i : Instr), i = .eval ∨ i = .check →
    ∃ t, exec i s = .next t ∧ (t.result = .record → t.recordCount = s.recordCount + 1)) ∧
  (∀ s : State, ∃ t, exec .clearCount s = .next t ∧ t.recordCount = 0) ∧ State.reset.recordCount = 0

/-- The REC registers change only when a command completes with RECORD, when an EXTRACT completes, or by reset (R30). -/
def Obligations.RecordRegistersRule : Prop :=
  ∀ s t : State, step s = .next t →
    t.record = s.record ∨
    (∃ w n, s.engine = .running w n ∧ t.engine = .idle ∧ t.done = true ∧
      (t.result = .record ∨ decodeWord w = .ok .extract)) ∨
    (∃ how rest, s.env.inputs = .reset how :: rest ∧ ∀ r ∈ recordRegs, t.readReg r = 0)

/-- The sample memory changes only by a host write to it while BUSY = 0, or by reset; a completion never changes it (R49).
The word stored is the one the host's next access writes, an event's or the reference driver's, at the offset of the
access, and every other byte reads as before. The host as data, and what reset leaves in the memory, are the model's (log
entries 1 and 4). -/
def Obligations.OnlyTheHostWritesSamples : Prop :=
  ∀ s t : State, step s = .next t → t.mem ≠ s.mem →
    (∃ how rest, s.env.inputs = .reset how :: rest ∧ t.mem = []) ∨
    (s.busy = false ∧ ∃ addr v o, s.hostAccess? = some (.write addr .word v) ∧
      Config.windowOffset? s.cfg addr = some o ∧ Config.target s.cfg o .word = .sampleWord o ∧
      t.mem = (s.storeWord o v).mem ∧ ∀ a, (a < o ∨ o + 4 ≤ a) → t.byteAt a = s.byteAt a)

/-- What the block was built with never changes: the byte format, DC_BASE and SAMPLE_CAP (R202), and BASE, which is the
model's choice (log entry 3). -/
def Obligations.ConfigurationIsFixed : Prop := ∀ s t : State, step s = .next t → t.cfg = s.cfg

/-- Every command's results are a function of its operands (R38): two states alike in the operands, and different in every
result register, complete it alike. -/
def Obligations.CommandsDependOnOperandsOnly : Prop :=
  ∀ (i : Instr) (s u : State), s.cfg = u.cfg → s.align = u.align → s.nsamp = u.nsamp → s.frame = u.frame →
    s.dividend = u.dividend → s.divisor = u.divisor → s.recordCount = u.recordCount → (∀ a, s.byteAt a = u.byteAt a) →
    ∃ t v, exec i s = .next t ∧ exec i u = .next v ∧ t.result = v.result ∧ t.recordCount = v.recordCount ∧
      (i = .eval → t.result ≠ .windowRange → t.dec = v.dec) ∧
      (i = .div ∨ ((i = .eval ∨ i = .check) ∧ t.result ≠ .windowRange ∧ t.result ≠ .noPreamble) →
        t.division = v.division) ∧
      (i = .extract ∨ t.result = .record → t.record = v.record)

/-- R200: reset, from any state: every register at its reset value, the engine idle and irq low, so that a command in flight
is abandoned; and the state the machine starts from. -/
def Obligations.ResetValues : Prop :=
  (∀ s : State, (∀ r, s.applyReset.readReg r = if r = .divs then 0x00016F63 else 0) ∧ s.applyReset.engine = .idle ∧
    s.applyReset.irq = false) ∧
  (∀ r, State.reset.readReg r = if r = .divs then 0x00016F63 else 0) ∧ State.reset.engine = .idle ∧
  State.reset.irq = false

/-- The reset input, taken as a host event (log entry 4), resets the block whether or not a command runs: no sample keeps a
stored value (log entry 1); the parameters, the host's other events and what it has observed stay (log entry 14); and the
host restarts its scan, if it has one (R210; log entry 19). -/
def Obligations.ResetInputAbandonsTheCommand : Prop :=
  ∀ (s : State) (how : Restart) (rest : List HostEvent) (w : Word) (n : Nat), s.env.inputs = .reset how :: rest →
    s.engine = .idle ∨ s.engine = .running w (n + 1) →
    ∃ t, step s = .next t ∧ (∀ r, t.readReg r = State.reset.readReg r) ∧ t.engine = .idle ∧ t.irq = false ∧
      t.cfg = s.cfg ∧ t.mem = [] ∧ t.env.inputs = rest ∧ t.env.driver = s.env.driver.map (Driver.restart how) ∧
      t.env.observed = s.env.observed

/-- R210: a reset in the middle of a scan discards the command in flight and sets RECORD_COUNT to 0; the records already read
are unaffected; and the host takes the scan up from its start, or at its saved cursor, where it first writes the block's
samples again. That a host that goes on at its cursor keeps its block, too, is the model's choice (log entry 19), and so is
the reset as a host event (log entry 4). -/
def Obligations.ResetRestartsTheScan : Prop :=
  ∀ (s : State) (d : Driver) (how : Restart) (rest : List HostEvent) (w : Word) (n : Nat),
    s.env.inputs = .reset how :: rest → s.env.driver = some d → s.engine = .idle ∨ s.engine = .running w (n + 1) →
    ∃ t d', step s = .next t ∧ t.engine = .idle ∧ t.done = false ∧ t.recordCount = 0 ∧ t.env.driver = some d' ∧
      d'.bytes = d.bytes ∧ d'.earlier ++ d'.records = d.earlier ++ d.records ∧
      (how = .fromStart → (∀ total, d.phase ≠ .finished total) →
        d'.phase = .clearCount ∧ d'.p = 0 ∧ d'.b = 0 ∧ d'.records = []) ∧
      (how = .fromCursor → d.phase ≠ .clearCount → d.phase ≠ .awaitClear → (∀ total, d.phase ≠ .finished total) →
        d.b + 14046 ≤ d.samples →
        d'.phase = .loadWord 0 ∧ d'.p = d.p ∧ d'.b = d.b ∧ d'.records = d.records ∧ d'.count = 0)

/-- The invariant holds right after reset. That the memory is canonical and lists nothing, and BASE = 0, are the model's (log
entries 20, 1 and 3). -/
def Obligations.ResetMeetsTheInvariant : Prop := State.reset.Inv

/-- Every step of a state that meets the invariant goes on, and keeps it. The canonical form of the memory is the model's (log
entry 20). -/
def Obligations.EveryStepKeepsTheInvariant : Prop := ∀ s : State, s.Inv → SafeStep s

/-! ### The host's programs (spec/30_encoding.md R70, R71) -/

/-- `ldframe F` and `lddiv D, G` leave F, D and G in the registers, from any idle state. -/
def Obligations.LoadMacrosLoadTheOperands : Prop :=
  ∀ (s : State) (F : Frame) (D : WidePoly) (G : Word), s.engine = .idle →
    (s.env.inputs = HostAsm.ldframe s.cfg F →
      ∃ t : State, core.run 3 s = .next t ∧ t.hostFrame = F ∧ t.env.inputs = [] ∧
        ∀ r, r ∉ [Reg.frameHi, .frameMid, .frameLo] → t.readReg r = s.readReg r) ∧
    (s.env.inputs = HostAsm.lddiv s.cfg D G →
      ∃ t : State, core.run 5 s = .next t ∧ t.hostDividend = D ∧ t.readReg .divs = G ∧ t.env.inputs = [] ∧
        ∀ r, r ∉ [Reg.divdW0, .divdW1, .divdW2, .divdW3, .divs] → t.readReg r = s.readReg r)

/-! ### The reference driver (spec/44_host_scan.md) -/

/-- R167 and R168: the cursor after a record, and after any other result. -/
def Obligations.CursorAdvances : Prop :=
  (∀ (d : Driver) (v : Word), d.phase = .readResult → resultField v ≠ 7 →
    (d.after v).p = d.p + 30 ∧ (d.after v).records = d.records) ∧
  (∀ (d : Driver) (v : Word), d.phase = .readResult → resultField v = 7 → d.after v = { d with phase := .readId }) ∧
  (∀ (d : Driver) (id info v : Word), d.phase = .readCons id info →
    (d.after v).p = d.p + 14016 ∧ (d.after v).records = d.records ++ [⟨d.p, recordOfWords id info v⟩])

/-- A step keeps the driver's invariant, whatever the block answers and whenever it is reset: p ≥ b at every inner-loop test (R166), and records come
out in order, at least 14016 samples apart (R171). -/
def Obligations.EveryStepKeepsTheDriverInvariant : Prop :=
  (∀ bytes, (Driver.start bytes).Inv) ∧
  (∀ (s t : State) (d : Driver), s.env.driver = some d → d.Inv → step s = .next t →
    ∃ d', t.env.driver = some d' ∧ d'.Inv ∧ d'.bytes = d.bytes)

/-- At every phase of a scan RECORD_COUNT is the number of records read since the last reset, and one more between the
completion with RECORD and the reading of the record (R27, R170, R210): every step of a host that only scans, on a block that
may be reset, keeps this. -/
def Obligations.EveryStepKeepsTheScanCount : Prop :=
  (∀ (s : State) (bytes : List Byte), s.engine = .idle → (∀ e ∈ s.env.inputs, e.ofScan = true) →
    s.env.driver = some (Driver.start bytes) → s.ScanInv (Driver.start bytes)) ∧
  (∀ (s t : State) (d : Driver), s.ScanInv d → step s = .next t → ∃ d', t.ScanInv d' ∧ d'.bytes = d.bytes)

/-- A scan's total is the number of its records, modulo 2^32 (R170), less those read before a reset that the scan went on after
(R210). -/
def Obligations.ScanTotalIsTheNumberOfRecords : Prop :=
  ∀ (s : State) (bytes : List Byte), s.engine = .idle → (∀ e ∈ s.env.inputs, e.ofScan = true) →
    s.env.driver = some (Driver.start bytes) →
    ∀ (k : Nat) (t : State) (d : Driver) (total : Word), core.run k s = .next t → t.env.driver = some d →
      d.phase = .finished total →
      total = BitVec.ofNat 32 (d.records.length - d.uncounted) ∧ (s.env.inputs = [] → d.uncounted = 0)

/-- Every scan ends (R172), for every latency of every command and however often the block is reset meanwhile. -/
def Obligations.EveryScanEnds : Prop :=
  ∀ (s : State) (bytes : List Byte), s.engine = .idle → (∀ e ∈ s.env.inputs, e.ofScan = true) →
    s.env.driver = some (Driver.start bytes) →
    ∃ (k : Nat) (t : State) (d : Driver) (total : Word), core.run k s = .next t ∧ t.env.driver = some d ∧
      d.phase = .finished total

/-- Every record of a scan is a valid frame of the input sequence at its position, with that frame's fields, on a block
whose sample memory holds a block of 18688 samples, and however often the block is reset meanwhile. -/
def Obligations.ScanRecordsAreFramesOfTheSequence : Prop :=
  ∀ (s : State) (bytes : List Byte), s.cfg.wf = true → 18688 ≤ s.cfg.sampleCap → s.engine = .idle →
    (∀ e ∈ s.env.inputs, e.ofScan = true) → s.env.driver = some (Driver.start bytes) →
    ∀ (k : Nat) (t : State) (d : Driver), core.run k s = .next t → t.env.driver = some d →
      ∀ r ∈ d.earlier ++ d.records, 2 * (r.position + 14018) ≤ bytes.length ∧
        ∃ F : Frame, (∀ n < 96, F.getMsbD n =
            decide (0 < softOf (fun j => sequenceEnergy s.cfg.byteFormat bytes (r.position + j)) n)) ∧
          frameCheck F = .record ∧ r.fields = extractFields s.cfg.dcBase F

/-- Sequences of fewer than 14046 samples are not scanned (R175). -/
def Obligations.ShortSequencesAreNotScanned : Prop :=
  ∀ (bytes : List Byte) (v w : Word), bytes.length / 2 < 14046 → v.getLsbD 0 = false →
    (((Driver.start bytes).after w).after v).phase = .readTotal ∧ (((Driver.start bytes).after w).after v).records = []
end

