-- ==== Sys2Proof/Laws/State.lean ====
section
/-! SUPPORT. What every update of State leaves in every field: true by rfl, and simp knows them. -/

namespace Sys2Proof.Machine

variable (s : State)

/-! ### `State.clearStatus` -/

@[simp] theorem State.clearStatus_cfg (v : Word) : (s.clearStatus v).cfg = s.cfg := rfl
@[simp] theorem State.clearStatus_ie (v : Word) : (s.clearStatus v).ie = s.ie := rfl
@[simp] theorem State.clearStatus_done (v : Word) : (s.clearStatus v).done = (s.done && !v.getLsbD 1) := rfl
@[simp] theorem State.clearStatus_busyWrErr (v : Word) : (s.clearStatus v).busyWrErr = (s.busyWrErr && !v.getLsbD 2) := rfl
@[simp] theorem State.clearStatus_accErr (v : Word) : (s.clearStatus v).accErr = (s.accErr && !v.getLsbD 3) := rfl
@[simp] theorem State.clearStatus_result (v : Word) : (s.clearStatus v).result = s.result := rfl
@[simp] theorem State.clearStatus_align (v : Word) : (s.clearStatus v).align = s.align := rfl
@[simp] theorem State.clearStatus_nsamp (v : Word) : (s.clearStatus v).nsamp = s.nsamp := rfl
@[simp] theorem State.clearStatus_recordCount (v : Word) : (s.clearStatus v).recordCount = s.recordCount := rfl
@[simp] theorem State.clearStatus_record (v : Word) : (s.clearStatus v).record = s.record := rfl
@[simp] theorem State.clearStatus_dec (v : Word) : (s.clearStatus v).dec = s.dec := rfl
@[simp] theorem State.clearStatus_frame (v : Word) : (s.clearStatus v).frame = s.frame := rfl
@[simp] theorem State.clearStatus_dividend (v : Word) : (s.clearStatus v).dividend = s.dividend := rfl
@[simp] theorem State.clearStatus_divisor (v : Word) : (s.clearStatus v).divisor = s.divisor := rfl
@[simp] theorem State.clearStatus_division (v : Word) : (s.clearStatus v).division = s.division := rfl
@[simp] theorem State.clearStatus_mem (v : Word) : (s.clearStatus v).mem = s.mem := rfl
@[simp] theorem State.clearStatus_engine (v : Word) : (s.clearStatus v).engine = s.engine := rfl
@[simp] theorem State.clearStatus_env (v : Word) : (s.clearStatus v).env = s.env := rfl

/-! ### `State.setBusyWrErr` -/

@[simp] theorem State.setBusyWrErr_cfg : (s.setBusyWrErr).cfg = s.cfg := rfl
@[simp] theorem State.setBusyWrErr_ie : (s.setBusyWrErr).ie = s.ie := rfl
@[simp] theorem State.setBusyWrErr_done : (s.setBusyWrErr).done = s.done := rfl
@[simp] theorem State.setBusyWrErr_busyWrErr : (s.setBusyWrErr).busyWrErr = true := rfl
@[simp] theorem State.setBusyWrErr_accErr : (s.setBusyWrErr).accErr = s.accErr := rfl
@[simp] theorem State.setBusyWrErr_result : (s.setBusyWrErr).result = s.result := rfl
@[simp] theorem State.setBusyWrErr_align : (s.setBusyWrErr).align = s.align := rfl
@[simp] theorem State.setBusyWrErr_nsamp : (s.setBusyWrErr).nsamp = s.nsamp := rfl
@[simp] theorem State.setBusyWrErr_recordCount : (s.setBusyWrErr).recordCount = s.recordCount := rfl
@[simp] theorem State.setBusyWrErr_record : (s.setBusyWrErr).record = s.record := rfl
@[simp] theorem State.setBusyWrErr_dec : (s.setBusyWrErr).dec = s.dec := rfl
@[simp] theorem State.setBusyWrErr_frame : (s.setBusyWrErr).frame = s.frame := rfl
@[simp] theorem State.setBusyWrErr_dividend : (s.setBusyWrErr).dividend = s.dividend := rfl
@[simp] theorem State.setBusyWrErr_divisor : (s.setBusyWrErr).divisor = s.divisor := rfl
@[simp] theorem State.setBusyWrErr_division : (s.setBusyWrErr).division = s.division := rfl
@[simp] theorem State.setBusyWrErr_mem : (s.setBusyWrErr).mem = s.mem := rfl
@[simp] theorem State.setBusyWrErr_engine : (s.setBusyWrErr).engine = s.engine := rfl
@[simp] theorem State.setBusyWrErr_env : (s.setBusyWrErr).env = s.env := rfl

/-! ### `State.setAccErr` -/

@[simp] theorem State.setAccErr_cfg : (s.setAccErr).cfg = s.cfg := rfl
@[simp] theorem State.setAccErr_ie : (s.setAccErr).ie = s.ie := rfl
@[simp] theorem State.setAccErr_done : (s.setAccErr).done = s.done := rfl
@[simp] theorem State.setAccErr_busyWrErr : (s.setAccErr).busyWrErr = s.busyWrErr := rfl
@[simp] theorem State.setAccErr_accErr : (s.setAccErr).accErr = true := rfl
@[simp] theorem State.setAccErr_result : (s.setAccErr).result = s.result := rfl
@[simp] theorem State.setAccErr_align : (s.setAccErr).align = s.align := rfl
@[simp] theorem State.setAccErr_nsamp : (s.setAccErr).nsamp = s.nsamp := rfl
@[simp] theorem State.setAccErr_recordCount : (s.setAccErr).recordCount = s.recordCount := rfl
@[simp] theorem State.setAccErr_record : (s.setAccErr).record = s.record := rfl
@[simp] theorem State.setAccErr_dec : (s.setAccErr).dec = s.dec := rfl
@[simp] theorem State.setAccErr_frame : (s.setAccErr).frame = s.frame := rfl
@[simp] theorem State.setAccErr_dividend : (s.setAccErr).dividend = s.dividend := rfl
@[simp] theorem State.setAccErr_divisor : (s.setAccErr).divisor = s.divisor := rfl
@[simp] theorem State.setAccErr_division : (s.setAccErr).division = s.division := rfl
@[simp] theorem State.setAccErr_mem : (s.setAccErr).mem = s.mem := rfl
@[simp] theorem State.setAccErr_engine : (s.setAccErr).engine = s.engine := rfl
@[simp] theorem State.setAccErr_env : (s.setAccErr).env = s.env := rfl

/-! ### `State.storeWord` -/

@[simp] theorem State.storeWord_cfg (o : Nat) (v : Word) : (s.storeWord o v).cfg = s.cfg := rfl
@[simp] theorem State.storeWord_ie (o : Nat) (v : Word) : (s.storeWord o v).ie = s.ie := rfl
@[simp] theorem State.storeWord_done (o : Nat) (v : Word) : (s.storeWord o v).done = s.done := rfl
@[simp] theorem State.storeWord_busyWrErr (o : Nat) (v : Word) : (s.storeWord o v).busyWrErr = s.busyWrErr := rfl
@[simp] theorem State.storeWord_accErr (o : Nat) (v : Word) : (s.storeWord o v).accErr = s.accErr := rfl
@[simp] theorem State.storeWord_result (o : Nat) (v : Word) : (s.storeWord o v).result = s.result := rfl
@[simp] theorem State.storeWord_align (o : Nat) (v : Word) : (s.storeWord o v).align = s.align := rfl
@[simp] theorem State.storeWord_nsamp (o : Nat) (v : Word) : (s.storeWord o v).nsamp = s.nsamp := rfl
@[simp] theorem State.storeWord_recordCount (o : Nat) (v : Word) : (s.storeWord o v).recordCount = s.recordCount := rfl
@[simp] theorem State.storeWord_record (o : Nat) (v : Word) : (s.storeWord o v).record = s.record := rfl
@[simp] theorem State.storeWord_dec (o : Nat) (v : Word) : (s.storeWord o v).dec = s.dec := rfl
@[simp] theorem State.storeWord_frame (o : Nat) (v : Word) : (s.storeWord o v).frame = s.frame := rfl
@[simp] theorem State.storeWord_dividend (o : Nat) (v : Word) : (s.storeWord o v).dividend = s.dividend := rfl
@[simp] theorem State.storeWord_divisor (o : Nat) (v : Word) : (s.storeWord o v).divisor = s.divisor := rfl
@[simp] theorem State.storeWord_division (o : Nat) (v : Word) : (s.storeWord o v).division = s.division := rfl
@[simp] theorem State.storeWord_mem (o : Nat) (v : Word) : (s.storeWord o v).mem = s.mem.writeRun o (bytesOfWord v) := rfl
@[simp] theorem State.storeWord_engine (o : Nat) (v : Word) : (s.storeWord o v).engine = s.engine := rfl
@[simp] theorem State.storeWord_env (o : Nat) (v : Word) : (s.storeWord o v).env = s.env := rfl

/-! ### `State.writeDivision` -/

@[simp] theorem State.writeDivision_cfg (d : Division) : (s.writeDivision d).cfg = s.cfg := rfl
@[simp] theorem State.writeDivision_ie (d : Division) : (s.writeDivision d).ie = s.ie := rfl
@[simp] theorem State.writeDivision_done (d : Division) : (s.writeDivision d).done = s.done := rfl
@[simp] theorem State.writeDivision_busyWrErr (d : Division) : (s.writeDivision d).busyWrErr = s.busyWrErr := rfl
@[simp] theorem State.writeDivision_accErr (d : Division) : (s.writeDivision d).accErr = s.accErr := rfl
@[simp] theorem State.writeDivision_result (d : Division) : (s.writeDivision d).result = s.result := rfl
@[simp] theorem State.writeDivision_align (d : Division) : (s.writeDivision d).align = s.align := rfl
@[simp] theorem State.writeDivision_nsamp (d : Division) : (s.writeDivision d).nsamp = s.nsamp := rfl
@[simp] theorem State.writeDivision_recordCount (d : Division) : (s.writeDivision d).recordCount = s.recordCount := rfl
@[simp] theorem State.writeDivision_record (d : Division) : (s.writeDivision d).record = s.record := rfl
@[simp] theorem State.writeDivision_dec (d : Division) : (s.writeDivision d).dec = s.dec := rfl
@[simp] theorem State.writeDivision_frame (d : Division) : (s.writeDivision d).frame = s.frame := rfl
@[simp] theorem State.writeDivision_dividend (d : Division) : (s.writeDivision d).dividend = s.dividend := rfl
@[simp] theorem State.writeDivision_divisor (d : Division) : (s.writeDivision d).divisor = s.divisor := rfl
@[simp] theorem State.writeDivision_division (d : Division) : (s.writeDivision d).division = d := rfl
@[simp] theorem State.writeDivision_mem (d : Division) : (s.writeDivision d).mem = s.mem := rfl
@[simp] theorem State.writeDivision_engine (d : Division) : (s.writeDivision d).engine = s.engine := rfl
@[simp] theorem State.writeDivision_env (d : Division) : (s.writeDivision d).env = s.env := rfl

/-! ### `State.writeRecord` -/

@[simp] theorem State.writeRecord_cfg (r : Record) : (s.writeRecord r).cfg = s.cfg := rfl
@[simp] theorem State.writeRecord_ie (r : Record) : (s.writeRecord r).ie = s.ie := rfl
@[simp] theorem State.writeRecord_done (r : Record) : (s.writeRecord r).done = s.done := rfl
@[simp] theorem State.writeRecord_busyWrErr (r : Record) : (s.writeRecord r).busyWrErr = s.busyWrErr := rfl
@[simp] theorem State.writeRecord_accErr (r : Record) : (s.writeRecord r).accErr = s.accErr := rfl
@[simp] theorem State.writeRecord_result (r : Record) : (s.writeRecord r).result = s.result := rfl
@[simp] theorem State.writeRecord_align (r : Record) : (s.writeRecord r).align = s.align := rfl
@[simp] theorem State.writeRecord_nsamp (r : Record) : (s.writeRecord r).nsamp = s.nsamp := rfl
@[simp] theorem State.writeRecord_recordCount (r : Record) : (s.writeRecord r).recordCount = s.recordCount := rfl
@[simp] theorem State.writeRecord_record (r : Record) : (s.writeRecord r).record = r := rfl
@[simp] theorem State.writeRecord_dec (r : Record) : (s.writeRecord r).dec = s.dec := rfl
@[simp] theorem State.writeRecord_frame (r : Record) : (s.writeRecord r).frame = s.frame := rfl
@[simp] theorem State.writeRecord_dividend (r : Record) : (s.writeRecord r).dividend = s.dividend := rfl
@[simp] theorem State.writeRecord_divisor (r : Record) : (s.writeRecord r).divisor = s.divisor := rfl
@[simp] theorem State.writeRecord_division (r : Record) : (s.writeRecord r).division = s.division := rfl
@[simp] theorem State.writeRecord_mem (r : Record) : (s.writeRecord r).mem = s.mem := rfl
@[simp] theorem State.writeRecord_engine (r : Record) : (s.writeRecord r).engine = s.engine := rfl
@[simp] theorem State.writeRecord_env (r : Record) : (s.writeRecord r).env = s.env := rfl

/-! ### `State.writeDec` -/

@[simp] theorem State.writeDec_cfg (F : Frame) : (s.writeDec F).cfg = s.cfg := rfl
@[simp] theorem State.writeDec_ie (F : Frame) : (s.writeDec F).ie = s.ie := rfl
@[simp] theorem State.writeDec_done (F : Frame) : (s.writeDec F).done = s.done := rfl
@[simp] theorem State.writeDec_busyWrErr (F : Frame) : (s.writeDec F).busyWrErr = s.busyWrErr := rfl
@[simp] theorem State.writeDec_accErr (F : Frame) : (s.writeDec F).accErr = s.accErr := rfl
@[simp] theorem State.writeDec_result (F : Frame) : (s.writeDec F).result = s.result := rfl
@[simp] theorem State.writeDec_align (F : Frame) : (s.writeDec F).align = s.align := rfl
@[simp] theorem State.writeDec_nsamp (F : Frame) : (s.writeDec F).nsamp = s.nsamp := rfl
@[simp] theorem State.writeDec_recordCount (F : Frame) : (s.writeDec F).recordCount = s.recordCount := rfl
@[simp] theorem State.writeDec_record (F : Frame) : (s.writeDec F).record = s.record := rfl
@[simp] theorem State.writeDec_dec (F : Frame) : (s.writeDec F).dec = F := rfl
@[simp] theorem State.writeDec_frame (F : Frame) : (s.writeDec F).frame = s.frame := rfl
@[simp] theorem State.writeDec_dividend (F : Frame) : (s.writeDec F).dividend = s.dividend := rfl
@[simp] theorem State.writeDec_divisor (F : Frame) : (s.writeDec F).divisor = s.divisor := rfl
@[simp] theorem State.writeDec_division (F : Frame) : (s.writeDec F).division = s.division := rfl
@[simp] theorem State.writeDec_mem (F : Frame) : (s.writeDec F).mem = s.mem := rfl
@[simp] theorem State.writeDec_engine (F : Frame) : (s.writeDec F).engine = s.engine := rfl
@[simp] theorem State.writeDec_env (F : Frame) : (s.writeDec F).env = s.env := rfl

/-! ### `State.writeCount` -/

@[simp] theorem State.writeCount_cfg (n : Word) : (s.writeCount n).cfg = s.cfg := rfl
@[simp] theorem State.writeCount_ie (n : Word) : (s.writeCount n).ie = s.ie := rfl
@[simp] theorem State.writeCount_done (n : Word) : (s.writeCount n).done = s.done := rfl
@[simp] theorem State.writeCount_busyWrErr (n : Word) : (s.writeCount n).busyWrErr = s.busyWrErr := rfl
@[simp] theorem State.writeCount_accErr (n : Word) : (s.writeCount n).accErr = s.accErr := rfl
@[simp] theorem State.writeCount_result (n : Word) : (s.writeCount n).result = s.result := rfl
@[simp] theorem State.writeCount_align (n : Word) : (s.writeCount n).align = s.align := rfl
@[simp] theorem State.writeCount_nsamp (n : Word) : (s.writeCount n).nsamp = s.nsamp := rfl
@[simp] theorem State.writeCount_recordCount (n : Word) : (s.writeCount n).recordCount = n := rfl
@[simp] theorem State.writeCount_record (n : Word) : (s.writeCount n).record = s.record := rfl
@[simp] theorem State.writeCount_dec (n : Word) : (s.writeCount n).dec = s.dec := rfl
@[simp] theorem State.writeCount_frame (n : Word) : (s.writeCount n).frame = s.frame := rfl
@[simp] theorem State.writeCount_dividend (n : Word) : (s.writeCount n).dividend = s.dividend := rfl
@[simp] theorem State.writeCount_divisor (n : Word) : (s.writeCount n).divisor = s.divisor := rfl
@[simp] theorem State.writeCount_division (n : Word) : (s.writeCount n).division = s.division := rfl
@[simp] theorem State.writeCount_mem (n : Word) : (s.writeCount n).mem = s.mem := rfl
@[simp] theorem State.writeCount_engine (n : Word) : (s.writeCount n).engine = s.engine := rfl
@[simp] theorem State.writeCount_env (n : Word) : (s.writeCount n).env = s.env := rfl

/-! ### `State.issue` -/

@[simp] theorem State.issue_cfg (w : Word) : (s.issue w).cfg = s.cfg := rfl
@[simp] theorem State.issue_ie (w : Word) : (s.issue w).ie = s.ie := rfl
@[simp] theorem State.issue_done (w : Word) : (s.issue w).done = false := rfl
@[simp] theorem State.issue_busyWrErr (w : Word) : (s.issue w).busyWrErr = s.busyWrErr := rfl
@[simp] theorem State.issue_accErr (w : Word) : (s.issue w).accErr = s.accErr := rfl
@[simp] theorem State.issue_result (w : Word) : (s.issue w).result = s.result := rfl
@[simp] theorem State.issue_align (w : Word) : (s.issue w).align = s.align := rfl
@[simp] theorem State.issue_nsamp (w : Word) : (s.issue w).nsamp = s.nsamp := rfl
@[simp] theorem State.issue_recordCount (w : Word) : (s.issue w).recordCount = s.recordCount := rfl
@[simp] theorem State.issue_record (w : Word) : (s.issue w).record = s.record := rfl
@[simp] theorem State.issue_dec (w : Word) : (s.issue w).dec = s.dec := rfl
@[simp] theorem State.issue_frame (w : Word) : (s.issue w).frame = s.frame := rfl
@[simp] theorem State.issue_dividend (w : Word) : (s.issue w).dividend = s.dividend := rfl
@[simp] theorem State.issue_divisor (w : Word) : (s.issue w).divisor = s.divisor := rfl
@[simp] theorem State.issue_division (w : Word) : (s.issue w).division = s.division := rfl
@[simp] theorem State.issue_mem (w : Word) : (s.issue w).mem = s.mem := rfl
@[simp] theorem State.issue_engine (w : Word) : (s.issue w).engine = .running w s.env.nextLatency := rfl
@[simp] theorem State.issue_env (w : Word) : (s.issue w).env = s.env.countIssue := rfl

/-! ### `State.complete` -/

@[simp] theorem State.complete_cfg (c : ResultCode) : (s.complete c).cfg = s.cfg := rfl
@[simp] theorem State.complete_ie (c : ResultCode) : (s.complete c).ie = s.ie := rfl
@[simp] theorem State.complete_done (c : ResultCode) : (s.complete c).done = true := rfl
@[simp] theorem State.complete_busyWrErr (c : ResultCode) : (s.complete c).busyWrErr = s.busyWrErr := rfl
@[simp] theorem State.complete_accErr (c : ResultCode) : (s.complete c).accErr = s.accErr := rfl
@[simp] theorem State.complete_result (c : ResultCode) : (s.complete c).result = c := rfl
@[simp] theorem State.complete_align (c : ResultCode) : (s.complete c).align = s.align := rfl
@[simp] theorem State.complete_nsamp (c : ResultCode) : (s.complete c).nsamp = s.nsamp := rfl
@[simp] theorem State.complete_recordCount (c : ResultCode) : (s.complete c).recordCount = s.recordCount := rfl
@[simp] theorem State.complete_record (c : ResultCode) : (s.complete c).record = s.record := rfl
@[simp] theorem State.complete_dec (c : ResultCode) : (s.complete c).dec = s.dec := rfl
@[simp] theorem State.complete_frame (c : ResultCode) : (s.complete c).frame = s.frame := rfl
@[simp] theorem State.complete_dividend (c : ResultCode) : (s.complete c).dividend = s.dividend := rfl
@[simp] theorem State.complete_divisor (c : ResultCode) : (s.complete c).divisor = s.divisor := rfl
@[simp] theorem State.complete_division (c : ResultCode) : (s.complete c).division = s.division := rfl
@[simp] theorem State.complete_mem (c : ResultCode) : (s.complete c).mem = s.mem := rfl
@[simp] theorem State.complete_engine (c : ResultCode) : (s.complete c).engine = .idle := rfl
@[simp] theorem State.complete_env (c : ResultCode) : (s.complete c).env = s.env := rfl

/-! ### `State.tick` -/

@[simp] theorem State.tick_cfg (w : Word) (n : Nat) : (s.tick w n).cfg = s.cfg := rfl
@[simp] theorem State.tick_ie (w : Word) (n : Nat) : (s.tick w n).ie = s.ie := rfl
@[simp] theorem State.tick_done (w : Word) (n : Nat) : (s.tick w n).done = s.done := rfl
@[simp] theorem State.tick_busyWrErr (w : Word) (n : Nat) : (s.tick w n).busyWrErr = s.busyWrErr := rfl
@[simp] theorem State.tick_accErr (w : Word) (n : Nat) : (s.tick w n).accErr = s.accErr := rfl
@[simp] theorem State.tick_result (w : Word) (n : Nat) : (s.tick w n).result = s.result := rfl
@[simp] theorem State.tick_align (w : Word) (n : Nat) : (s.tick w n).align = s.align := rfl
@[simp] theorem State.tick_nsamp (w : Word) (n : Nat) : (s.tick w n).nsamp = s.nsamp := rfl
@[simp] theorem State.tick_recordCount (w : Word) (n : Nat) : (s.tick w n).recordCount = s.recordCount := rfl
@[simp] theorem State.tick_record (w : Word) (n : Nat) : (s.tick w n).record = s.record := rfl
@[simp] theorem State.tick_dec (w : Word) (n : Nat) : (s.tick w n).dec = s.dec := rfl
@[simp] theorem State.tick_frame (w : Word) (n : Nat) : (s.tick w n).frame = s.frame := rfl
@[simp] theorem State.tick_dividend (w : Word) (n : Nat) : (s.tick w n).dividend = s.dividend := rfl
@[simp] theorem State.tick_divisor (w : Word) (n : Nat) : (s.tick w n).divisor = s.divisor := rfl
@[simp] theorem State.tick_division (w : Word) (n : Nat) : (s.tick w n).division = s.division := rfl
@[simp] theorem State.tick_mem (w : Word) (n : Nat) : (s.tick w n).mem = s.mem := rfl
@[simp] theorem State.tick_engine (w : Word) (n : Nat) : (s.tick w n).engine = .running w n := rfl
@[simp] theorem State.tick_env (w : Word) (n : Nat) : (s.tick w n).env = s.env := rfl

/-! ### `State.setInputs` -/

@[simp] theorem State.setInputs_cfg (l : List HostEvent) : (s.setInputs l).cfg = s.cfg := rfl
@[simp] theorem State.setInputs_ie (l : List HostEvent) : (s.setInputs l).ie = s.ie := rfl
@[simp] theorem State.setInputs_done (l : List HostEvent) : (s.setInputs l).done = s.done := rfl
@[simp] theorem State.setInputs_busyWrErr (l : List HostEvent) : (s.setInputs l).busyWrErr = s.busyWrErr := rfl
@[simp] theorem State.setInputs_accErr (l : List HostEvent) : (s.setInputs l).accErr = s.accErr := rfl
@[simp] theorem State.setInputs_result (l : List HostEvent) : (s.setInputs l).result = s.result := rfl
@[simp] theorem State.setInputs_align (l : List HostEvent) : (s.setInputs l).align = s.align := rfl
@[simp] theorem State.setInputs_nsamp (l : List HostEvent) : (s.setInputs l).nsamp = s.nsamp := rfl
@[simp] theorem State.setInputs_recordCount (l : List HostEvent) : (s.setInputs l).recordCount = s.recordCount := rfl
@[simp] theorem State.setInputs_record (l : List HostEvent) : (s.setInputs l).record = s.record := rfl
@[simp] theorem State.setInputs_dec (l : List HostEvent) : (s.setInputs l).dec = s.dec := rfl
@[simp] theorem State.setInputs_frame (l : List HostEvent) : (s.setInputs l).frame = s.frame := rfl
@[simp] theorem State.setInputs_dividend (l : List HostEvent) : (s.setInputs l).dividend = s.dividend := rfl
@[simp] theorem State.setInputs_divisor (l : List HostEvent) : (s.setInputs l).divisor = s.divisor := rfl
@[simp] theorem State.setInputs_division (l : List HostEvent) : (s.setInputs l).division = s.division := rfl
@[simp] theorem State.setInputs_mem (l : List HostEvent) : (s.setInputs l).mem = s.mem := rfl
@[simp] theorem State.setInputs_engine (l : List HostEvent) : (s.setInputs l).engine = s.engine := rfl
@[simp] theorem State.setInputs_env (l : List HostEvent) : (s.setInputs l).env = { s.env with inputs := l } := rfl

/-! ### `State.setDriver` -/

@[simp] theorem State.setDriver_cfg (d : Driver) : (s.setDriver d).cfg = s.cfg := rfl
@[simp] theorem State.setDriver_ie (d : Driver) : (s.setDriver d).ie = s.ie := rfl
@[simp] theorem State.setDriver_done (d : Driver) : (s.setDriver d).done = s.done := rfl
@[simp] theorem State.setDriver_busyWrErr (d : Driver) : (s.setDriver d).busyWrErr = s.busyWrErr := rfl
@[simp] theorem State.setDriver_accErr (d : Driver) : (s.setDriver d).accErr = s.accErr := rfl
@[simp] theorem State.setDriver_result (d : Driver) : (s.setDriver d).result = s.result := rfl
@[simp] theorem State.setDriver_align (d : Driver) : (s.setDriver d).align = s.align := rfl
@[simp] theorem State.setDriver_nsamp (d : Driver) : (s.setDriver d).nsamp = s.nsamp := rfl
@[simp] theorem State.setDriver_recordCount (d : Driver) : (s.setDriver d).recordCount = s.recordCount := rfl
@[simp] theorem State.setDriver_record (d : Driver) : (s.setDriver d).record = s.record := rfl
@[simp] theorem State.setDriver_dec (d : Driver) : (s.setDriver d).dec = s.dec := rfl
@[simp] theorem State.setDriver_frame (d : Driver) : (s.setDriver d).frame = s.frame := rfl
@[simp] theorem State.setDriver_dividend (d : Driver) : (s.setDriver d).dividend = s.dividend := rfl
@[simp] theorem State.setDriver_divisor (d : Driver) : (s.setDriver d).divisor = s.divisor := rfl
@[simp] theorem State.setDriver_division (d : Driver) : (s.setDriver d).division = s.division := rfl
@[simp] theorem State.setDriver_mem (d : Driver) : (s.setDriver d).mem = s.mem := rfl
@[simp] theorem State.setDriver_engine (d : Driver) : (s.setDriver d).engine = s.engine := rfl
@[simp] theorem State.setDriver_env (d : Driver) : (s.setDriver d).env = { s.env with driver := some d } := rfl

/-! ### `State.restartDriver` -/

@[simp] theorem State.restartDriver_cfg (how : Restart) : (s.restartDriver how).cfg = s.cfg := rfl
@[simp] theorem State.restartDriver_ie (how : Restart) : (s.restartDriver how).ie = s.ie := rfl
@[simp] theorem State.restartDriver_done (how : Restart) : (s.restartDriver how).done = s.done := rfl
@[simp] theorem State.restartDriver_busyWrErr (how : Restart) : (s.restartDriver how).busyWrErr = s.busyWrErr := rfl
@[simp] theorem State.restartDriver_accErr (how : Restart) : (s.restartDriver how).accErr = s.accErr := rfl
@[simp] theorem State.restartDriver_result (how : Restart) : (s.restartDriver how).result = s.result := rfl
@[simp] theorem State.restartDriver_align (how : Restart) : (s.restartDriver how).align = s.align := rfl
@[simp] theorem State.restartDriver_nsamp (how : Restart) : (s.restartDriver how).nsamp = s.nsamp := rfl
@[simp] theorem State.restartDriver_recordCount (how : Restart) : (s.restartDriver how).recordCount = s.recordCount := rfl
@[simp] theorem State.restartDriver_record (how : Restart) : (s.restartDriver how).record = s.record := rfl
@[simp] theorem State.restartDriver_dec (how : Restart) : (s.restartDriver how).dec = s.dec := rfl
@[simp] theorem State.restartDriver_frame (how : Restart) : (s.restartDriver how).frame = s.frame := rfl
@[simp] theorem State.restartDriver_dividend (how : Restart) : (s.restartDriver how).dividend = s.dividend := rfl
@[simp] theorem State.restartDriver_divisor (how : Restart) : (s.restartDriver how).divisor = s.divisor := rfl
@[simp] theorem State.restartDriver_division (how : Restart) : (s.restartDriver how).division = s.division := rfl
@[simp] theorem State.restartDriver_mem (how : Restart) : (s.restartDriver how).mem = s.mem := rfl
@[simp] theorem State.restartDriver_engine (how : Restart) : (s.restartDriver how).engine = s.engine := rfl
@[simp] theorem State.restartDriver_env (how : Restart) : (s.restartDriver how).env = { s.env with driver := s.env.driver.map fun d => d.restart how } := rfl

/-! ### `State.emitRecord` -/

@[simp] theorem State.emitRecord_cfg (F : Frame) : (s.emitRecord F).cfg = s.cfg := rfl
@[simp] theorem State.emitRecord_ie (F : Frame) : (s.emitRecord F).ie = s.ie := rfl
@[simp] theorem State.emitRecord_done (F : Frame) : (s.emitRecord F).done = s.done := rfl
@[simp] theorem State.emitRecord_busyWrErr (F : Frame) : (s.emitRecord F).busyWrErr = s.busyWrErr := rfl
@[simp] theorem State.emitRecord_accErr (F : Frame) : (s.emitRecord F).accErr = s.accErr := rfl
@[simp] theorem State.emitRecord_result (F : Frame) : (s.emitRecord F).result = s.result := rfl
@[simp] theorem State.emitRecord_align (F : Frame) : (s.emitRecord F).align = s.align := rfl
@[simp] theorem State.emitRecord_nsamp (F : Frame) : (s.emitRecord F).nsamp = s.nsamp := rfl
@[simp] theorem State.emitRecord_recordCount (F : Frame) : (s.emitRecord F).recordCount = s.recordCount + 1 := rfl
@[simp] theorem State.emitRecord_record (F : Frame) : (s.emitRecord F).record = extractFields s.cfg.dcBase F := rfl
@[simp] theorem State.emitRecord_dec (F : Frame) : (s.emitRecord F).dec = s.dec := rfl
@[simp] theorem State.emitRecord_frame (F : Frame) : (s.emitRecord F).frame = s.frame := rfl
@[simp] theorem State.emitRecord_dividend (F : Frame) : (s.emitRecord F).dividend = s.dividend := rfl
@[simp] theorem State.emitRecord_divisor (F : Frame) : (s.emitRecord F).divisor = s.divisor := rfl
@[simp] theorem State.emitRecord_division (F : Frame) : (s.emitRecord F).division = s.division := rfl
@[simp] theorem State.emitRecord_mem (F : Frame) : (s.emitRecord F).mem = s.mem := rfl
@[simp] theorem State.emitRecord_engine (F : Frame) : (s.emitRecord F).engine = s.engine := rfl
@[simp] theorem State.emitRecord_env (F : Frame) : (s.emitRecord F).env = s.env := rfl

/-! ### `State.applyReset` -/

@[simp] theorem State.applyReset_cfg : (s.applyReset).cfg = s.cfg := rfl
@[simp] theorem State.applyReset_ie : (s.applyReset).ie = State.reset.ie := rfl
@[simp] theorem State.applyReset_done : (s.applyReset).done = State.reset.done := rfl
@[simp] theorem State.applyReset_busyWrErr : (s.applyReset).busyWrErr = State.reset.busyWrErr := rfl
@[simp] theorem State.applyReset_accErr : (s.applyReset).accErr = State.reset.accErr := rfl
@[simp] theorem State.applyReset_result : (s.applyReset).result = State.reset.result := rfl
@[simp] theorem State.applyReset_align : (s.applyReset).align = State.reset.align := rfl
@[simp] theorem State.applyReset_nsamp : (s.applyReset).nsamp = State.reset.nsamp := rfl
@[simp] theorem State.applyReset_recordCount : (s.applyReset).recordCount = State.reset.recordCount := rfl
@[simp] theorem State.applyReset_record : (s.applyReset).record = State.reset.record := rfl
@[simp] theorem State.applyReset_dec : (s.applyReset).dec = State.reset.dec := rfl
@[simp] theorem State.applyReset_frame : (s.applyReset).frame = State.reset.frame := rfl
@[simp] theorem State.applyReset_dividend : (s.applyReset).dividend = State.reset.dividend := rfl
@[simp] theorem State.applyReset_divisor : (s.applyReset).divisor = State.reset.divisor := rfl
@[simp] theorem State.applyReset_division : (s.applyReset).division = State.reset.division := rfl
@[simp] theorem State.applyReset_mem : (s.applyReset).mem = State.reset.mem := rfl
@[simp] theorem State.applyReset_engine : (s.applyReset).engine = State.reset.engine := rfl
@[simp] theorem State.applyReset_env : (s.applyReset).env = { s.env with resets := s.env.resets + 1 } := rfl

/-! ### `State.observe` -/

@[simp] theorem State.observe_none : s.observe none = s := rfl

@[simp] theorem State.observe_some (v : Word) :
    s.observe (some v) = { s with env := { s.env with observed := v :: s.env.observed } } := rfl

@[simp] theorem State.observe_cfg (v : Option Word) : (s.observe v).cfg = s.cfg := by cases v <;> rfl
@[simp] theorem State.observe_ie (v : Option Word) : (s.observe v).ie = s.ie := by cases v <;> rfl
@[simp] theorem State.observe_done (v : Option Word) : (s.observe v).done = s.done := by cases v <;> rfl
@[simp] theorem State.observe_busyWrErr (v : Option Word) : (s.observe v).busyWrErr = s.busyWrErr := by cases v <;> rfl
@[simp] theorem State.observe_accErr (v : Option Word) : (s.observe v).accErr = s.accErr := by cases v <;> rfl
@[simp] theorem State.observe_result (v : Option Word) : (s.observe v).result = s.result := by cases v <;> rfl
@[simp] theorem State.observe_align (v : Option Word) : (s.observe v).align = s.align := by cases v <;> rfl
@[simp] theorem State.observe_nsamp (v : Option Word) : (s.observe v).nsamp = s.nsamp := by cases v <;> rfl
@[simp] theorem State.observe_recordCount (v : Option Word) : (s.observe v).recordCount = s.recordCount := by cases v <;> rfl
@[simp] theorem State.observe_record (v : Option Word) : (s.observe v).record = s.record := by cases v <;> rfl
@[simp] theorem State.observe_dec (v : Option Word) : (s.observe v).dec = s.dec := by cases v <;> rfl
@[simp] theorem State.observe_frame (v : Option Word) : (s.observe v).frame = s.frame := by cases v <;> rfl
@[simp] theorem State.observe_dividend (v : Option Word) : (s.observe v).dividend = s.dividend := by cases v <;> rfl
@[simp] theorem State.observe_divisor (v : Option Word) : (s.observe v).divisor = s.divisor := by cases v <;> rfl
@[simp] theorem State.observe_division (v : Option Word) : (s.observe v).division = s.division := by cases v <;> rfl
@[simp] theorem State.observe_mem (v : Option Word) : (s.observe v).mem = s.mem := by cases v <;> rfl
@[simp] theorem State.observe_engine (v : Option Word) : (s.observe v).engine = s.engine := by cases v <;> rfl

@[simp] theorem State.observe_inputs (v : Option Word) : (s.observe v).env.inputs = s.env.inputs := by cases v <;> rfl
@[simp] theorem State.observe_driver (v : Option Word) : (s.observe v).env.driver = s.env.driver := by cases v <;> rfl
@[simp] theorem State.observe_resets (v : Option Word) : (s.observe v).env.resets = s.env.resets := by cases v <;> rfl

/-! ### The counters of the environment -/

@[simp] theorem Environment.countIssue_inputs (e : Environment) : e.countIssue.inputs = e.inputs := rfl
@[simp] theorem Environment.countIssue_observed (e : Environment) : e.countIssue.observed = e.observed := rfl
@[simp] theorem Environment.countIssue_driver (e : Environment) : e.countIssue.driver = e.driver := rfl
@[simp] theorem Environment.countIssue_resets (e : Environment) : e.countIssue.resets = e.resets := rfl

/-! ### BUSY -/

@[simp] theorem Engine.busy_idle : Engine.idle.busy = false := rfl
@[simp] theorem Engine.busy_running (w : Word) (n : Nat) : (Engine.running w n).busy = true := rfl

theorem Engine.busy_eq_false {e : Engine} : e.busy = false ↔ e = .idle := by cases e <;> simp

theorem State.busy_eq : s.busy = s.engine.busy := rfl

theorem State.not_busy {s : State} (h : s.engine = .idle) : s.busy = false := by rw [State.busy_eq, h]; rfl

theorem State.is_busy {s : State} {w : Word} {n : Nat} (h : s.engine = .running w n) : s.busy = true := by
  rw [State.busy_eq, h]; rfl

@[simp] theorem State.busy_setInputs (l : List HostEvent) : (s.setInputs l).busy = s.busy := by
  rw [State.busy_eq, State.busy_eq, State.setInputs_engine]
@[simp] theorem State.busy_setDriver (d : Driver) : (s.setDriver d).busy = s.busy := by
  rw [State.busy_eq, State.busy_eq, State.setDriver_engine]
@[simp] theorem State.busy_restartDriver (how : Restart) : (s.restartDriver how).busy = s.busy := by
  rw [State.busy_eq, State.busy_eq, State.restartDriver_engine]
@[simp] theorem State.busy_observe (v : Option Word) : (s.observe v).busy = s.busy := by
  rw [State.busy_eq, State.busy_eq, State.observe_engine]
@[simp] theorem State.busy_tick (w : Word) (n : Nat) : (s.tick w n).busy = true := by
  rw [State.busy_eq, State.tick_engine, Engine.busy_running]
@[simp] theorem State.busy_complete (c : ResultCode) : (s.complete c).busy = false := by
  rw [State.busy_eq, State.complete_engine, Engine.busy_idle]

end Sys2Proof.Machine
end

