-- ==== Sys2Proof/Laws/Memory.lean ====
section
/-! SUPPORT. The sample memory: read after write, and that every operation keeps the canonical form. -/

namespace Sys2Proof.Machine

/-- Reading a skipped memory at or past the skip reads the memory. -/
theorem Memory.read_skip (m : Memory) {a b : Nat} (h : a ≤ b) : (m.skip a).read b = m.read b := by
  simp only [Memory.read, Memory.skip_skip m h]

theorem Memory.read_nil (a : Nat) : Memory.read [] a = none := rfl

theorem Memory.read_cons (k : Nat) (b : Byte) (m : Memory) (a : Nat) :
    Memory.read ((k, b) :: m) a = if k < a then m.read a else if k = a then some b else none := by
  by_cases h : k < a
  · simp [Memory.read, Memory.skip, h]
  · simp [Memory.read, Memory.skip, h]

theorem Memory.read_cells_append (bs : List Byte) (m : Memory) (a x : Nat) :
    Memory.read (Memory.cells a bs ++ m) x =
      if x < a then (if bs = [] then m.read x else none)
      else if h : x - a < bs.length then some (bs[x - a]) else m.read x := by
  induction bs generalizing a with
  | nil => simp [Memory.cells]
  | cons b bs ih =>
    simp only [Memory.cells, List.cons_append, Memory.read_cons, ih]
    by_cases h1 : a < x
    · have h3 : ¬x < a := by omega
      have h4 : ¬x < a + 1 := by omega
      by_cases h5 : x - (a + 1) < bs.length
      · have h6 : x - a < bs.length + 1 := by omega
        have h7 : x - a = x - (a + 1) + 1 := by omega
        simp [h1, h3, h4, h5, h7]
      · have h6 : ¬x - a < bs.length + 1 := by omega
        simp [h1, h3, h4, h5, h6]
    · by_cases h2 : a = x
      · subst h2
        simp
      · have h3 : x < a := by omega
        simp [h1, h2, h3]

/-- Read after a run of writes: the bytes written, and everywhere else what stood there. -/
theorem Memory.read_writeRun (m : Memory) (bs : List Byte) (a x : Nat) (hb : bs ≠ []) :
    (m.writeRun a bs).read x =
      if h : a ≤ x ∧ x - a < bs.length then some (bs[x - a]'h.2) else m.read x := by
  induction m with
  | nil =>
    have h := Memory.read_cells_append bs [] a x
    rw [List.append_nil] at h
    rw [Memory.writeRun, h]
    by_cases h1 : x < a
    · have : ¬a ≤ x := by omega
      simp [h1, hb, this, Memory.read_nil]
    · have : a ≤ x := by omega
      simp [h1, this, Memory.read_nil]
  | cons c m ih =>
    obtain ⟨k, v⟩ := c
    by_cases hk : k < a
    · rw [Memory.writeRun, if_pos hk, Memory.read_cons, Memory.read_cons, ih]
      by_cases hx : k < x
      · simp [hx]
      · have h1 : ¬a ≤ x := by omega
        simp [hx, h1]
    · rw [Memory.writeRun, if_neg hk, Memory.read_cells_append]
      by_cases h1 : x < a
      · have h2 : ¬a ≤ x := by omega
        have h3 : ¬k < x := by omega
        have h4 : ¬k = x := by omega
        simp [h1, h2, hb, Memory.read_cons, h3, h4]
      · have h2 : a ≤ x := by omega
        by_cases h3 : x - a < bs.length
        · simp [h1, h2, h3]
        · have h4 : a + bs.length ≤ x := by omega
          simp [h1, h2, h3, Memory.read_skip _ h4]

theorem Memory.risingFrom_mono {m : Memory} {lo lo' : Nat} (h : lo ≤ lo') (hm : m.risingFrom lo' = true) :
    m.risingFrom lo = true := by
  cases m with
  | nil => rfl
  | cons c m =>
    obtain ⟨k, v⟩ := c
    simp only [Memory.risingFrom, Bool.and_eq_true, decide_eq_true_eq] at hm ⊢
    exact ⟨Nat.le_trans h hm.1, hm.2⟩

theorem Memory.risingFrom_skip {m : Memory} {lo a : Nat} (hm : m.risingFrom lo = true) :
    (m.skip a).risingFrom a = true := by
  induction m generalizing lo with
  | nil => rfl
  | cons c m ih =>
    obtain ⟨k, v⟩ := c
    simp only [Memory.risingFrom, Bool.and_eq_true, decide_eq_true_eq] at hm
    by_cases hk : k < a
    · simpa [Memory.skip, hk] using ih hm.2
    · have : a ≤ k := by omega
      simp [Memory.skip, hk, Memory.risingFrom, this, hm.2]

theorem Memory.risingFrom_cells (a : Nat) (bs : List Byte) {m : Memory}
    (hm : m.risingFrom (a + bs.length) = true) : (Memory.cells a bs ++ m).risingFrom a = true := by
  induction bs generalizing a with
  | nil => simpa [Memory.cells] using hm
  | cons b bs ih =>
    have h := ih (a + 1) (by rw [List.length_cons] at hm; rwa [show a + 1 + bs.length = a + (bs.length + 1) by omega])
    simp [Memory.cells, Memory.risingFrom, h]

theorem Memory.risingFrom_writeRun {m : Memory} {lo a : Nat} (bs : List Byte) (ha : lo ≤ a)
    (hm : m.risingFrom lo = true) : (m.writeRun a bs).risingFrom lo = true := by
  induction m generalizing lo with
  | nil =>
    have h := Memory.risingFrom_cells a bs (m := []) rfl
    rw [List.append_nil] at h
    exact Memory.risingFrom_mono ha h
  | cons c m ih =>
    obtain ⟨k, v⟩ := c
    have hm' := hm
    simp only [Memory.risingFrom, Bool.and_eq_true, decide_eq_true_eq] at hm
    by_cases hk : k < a
    · simp only [Memory.writeRun, if_pos hk, Memory.risingFrom, Bool.and_eq_true, decide_eq_true_eq]
      exact ⟨hm.1, ih (by omega) hm.2⟩
    · rw [Memory.writeRun, if_neg hk]
      exact Memory.risingFrom_mono ha (Memory.risingFrom_cells a bs (Memory.risingFrom_skip hm'))

/-- A write keeps the canonical form. -/
theorem Memory.wf_writeRun {m : Memory} (a : Nat) (bs : List Byte) (hm : m.wf = true) :
    (m.writeRun a bs).wf = true :=
  Memory.risingFrom_writeRun bs (Nat.zero_le a) hm

theorem Memory.mem_skip {m : Memory} {a : Nat} {c : Host.Cell} (h : c ∈ m.skip a) : c ∈ m := by
  induction m with
  | nil => exact h
  | cons d m ih =>
    obtain ⟨k, v⟩ := d
    by_cases hk : k < a
    · rw [Memory.skip, if_pos hk] at h
      exact List.mem_cons_of_mem _ (ih h)
    · rwa [Memory.skip, if_neg hk] at h

theorem Memory.mem_cells {a : Nat} {bs : List Byte} {c : Host.Cell} (h : c ∈ Memory.cells a bs) :
    a ≤ c.1 ∧ c.1 < a + bs.length := by
  induction bs generalizing a with
  | nil => simp [Memory.cells] at h
  | cons b bs ih =>
    rw [Memory.cells, List.mem_cons] at h
    rcases h with rfl | h
    · simp
    · have := ih h
      simp only [List.length_cons]
      omega

theorem Memory.mem_writeRun {m : Memory} {a : Nat} {bs : List Byte} {c : Host.Cell} (h : c ∈ m.writeRun a bs) :
    c ∈ m ∨ a ≤ c.1 ∧ c.1 < a + bs.length := by
  induction m with
  | nil => exact .inr (Memory.mem_cells h)
  | cons d m ih =>
    obtain ⟨k, v⟩ := d
    by_cases hk : k < a
    · rw [Memory.writeRun, if_pos hk, List.mem_cons] at h
      rcases h with rfl | h
      · exact .inl (List.mem_cons_self ..)
      · exact (ih h).imp (List.mem_cons_of_mem _) id
    · rw [Memory.writeRun, if_neg hk, List.mem_append] at h
      exact h.symm.imp Memory.mem_skip Memory.mem_cells

/-- A write inside the sample memory lists only bytes of the sample memory. -/
theorem Memory.within_writeRun {m : Memory} {cap a : Nat} {bs : List Byte} (hm : m.within cap = true)
    (h1 : sampleBase ≤ a) (h2 : a + bs.length ≤ sampleBase + 2 * cap) : (m.writeRun a bs).within cap = true := by
  simp only [Memory.within, List.all_eq_true, Bool.and_eq_true, decide_eq_true_eq] at hm ⊢
  intro c hc
  rcases Memory.mem_writeRun hc with h | h
  · exact hm c h
  · omega

/-- Memory built from consecutive bytes reads as those bytes. -/
theorem Memory.read_cells (a : Nat) (bs : List Byte) (i : Nat) (h : i < bs.length) :
    Memory.read (Memory.cells a bs) (a + i) = some bs[i] := by
  have := Memory.read_cells_append bs [] a (a + i)
  rw [List.append_nil] at this
  simp [this, h]

/-- The byte of a run, after the run is written. -/
theorem Memory.byteOr_writeRun (r : Nat) (m : Memory) (bs : List Byte) (a x : Nat) (hb : bs ≠ []) :
    (m.writeRun a bs).byteOr r x = if h : a ≤ x ∧ x - a < bs.length then bs[x - a]'h.2 else m.byteOr r x := by
  rw [Memory.byteOr, Memory.read_writeRun m bs a x hb]
  by_cases h : a ≤ x ∧ x - a < bs.length
  · simp [h]
  · simp [h, Memory.byteOr]

/-- The four bytes of a bus word make the word again (R43). -/
theorem wordOfBytes_bytes (v : Word) :
    wordOfBytes (byteOfWord v 0) (byteOfWord v 1) (byteOfWord v 2) (byteOfWord v 3) = v := by
  refine BitVec.eq_of_getLsbD_eq fun i hi => ?_
  rw [wordOfBytes, BitVec.getLsbD_append, BitVec.getLsbD_append, BitVec.getLsbD_append]
  simp only [byteOfWord, BitVec.getLsbD_extractLsb']
  by_cases h1 : i < 8
  · simp [h1]
  · by_cases h2 : i < 16
    · rw [show 8 * 1 + (i - 8) = i by omega]
      simp [h1, show i - 8 < 8 by omega]
    · by_cases h3 : i < 24
      · rw [show 8 * 2 + (i - 8 - 8) = i by omega]
        simp [h1, show ¬i - 8 < 8 by omega, show i - 8 - 8 < 8 by omega]
      · rw [show 8 * 3 + (i - 8 - 8 - 8) = i by omega]
        simp [h1, show ¬i - 8 < 8 by omega, show ¬i - 8 - 8 < 8 by omega, show i - 8 - 8 - 8 < 8 by omega]

theorem State.byteAt_storeWord (s : State) (o : Nat) (v : Word) (x : Nat) :
    (s.storeWord o v).byteAt x =
      if x = o then byteOfWord v 0 else if x = o + 1 then byteOfWord v 1 else if x = o + 2 then byteOfWord v 2
      else if x = o + 3 then byteOfWord v 3 else s.byteAt x := by
  rw [State.byteAt, State.storeWord_mem, State.storeWord_env,
    Memory.byteOr_writeRun _ _ _ _ _ (by simp [bytesOfWord])]
  by_cases h : o ≤ x ∧ x - o < (bytesOfWord v).length
  · rw [dif_pos h]
    obtain ⟨h1, h2⟩ := h
    obtain ⟨j, rfl⟩ := Nat.exists_eq_add_of_le h1
    have h3 : j < 4 := by simpa [bytesOfWord] using h2
    interval_cases j <;> simp [bytesOfWord]
  · rw [dif_neg h]
    simp only [bytesOfWord, List.length_cons, List.length_nil] at h
    rw [if_neg (by omega), if_neg (by omega), if_neg (by omega), if_neg (by omega)]
    rfl

/-- A stored word reads back (R44). -/
theorem State.loadWord_storeWord (s : State) (o : Nat) (v : Word) : (s.storeWord o v).loadWord o = v := by
  simp [State.loadWord, State.byteAt_storeWord, wordOfBytes_bytes]

end Sys2Proof.Machine
end

