-- ==== Sys2Proof/Laws/Registers.lean ====
section
/-! SUPPORT. The register map: what a host reads of a wide register, what each update leaves every register reading, and the
offsets. -/

namespace Sys2Proof.Machine

/-! ### Words of wide registers -/

/-- The word just written reads back. -/
theorem wordAt_withWord_self {n : Nat} (v : BitVec n) (j : Nat) (w : Word) (h : 32 * j + 32 ≤ n) :
    wordAt (withWord v j w) j = w := by
  refine BitVec.eq_of_getLsbD_eq fun i hi => ?_
  have h1 : 32 * j + i < n := by omega
  have h2 : (0xFFFFFFFF#32).getLsbD i = true := by
    rw [show (0xFFFFFFFF#32) = BitVec.allOnes 32 from rfl, BitVec.getLsbD_allOnes, decide_eq_true hi]
  have h3 : ¬32 * j + i < 32 * j := by omega
  simp only [wordAt, withWord, BitVec.getLsbD_extractLsb', hi, decide_true, Bool.true_and, BitVec.getLsbD_or,
    BitVec.getLsbD_and, BitVec.getLsbD_not, h1, BitVec.getLsbD_shiftLeft, BitVec.getLsbD_setWidth, h3, decide_false,
    Bool.not_false, Nat.add_sub_cancel_left, h2, show i < n by omega, Bool.not_true, Bool.and_false, Bool.false_or]

/-- The other words are left alone. -/
theorem wordAt_withWord_ne {n : Nat} (v : BitVec n) (j k : Nat) (w : Word) (h : j ≠ k) (hk : 32 * k + 32 ≤ n) :
    wordAt (withWord v j w) k = wordAt v k := by
  refine BitVec.eq_of_getLsbD_eq fun i hi => ?_
  have h1 : 32 * k + i < n := by omega
  simp only [wordAt, withWord, BitVec.getLsbD_extractLsb', hi, decide_true, Bool.true_and, BitVec.getLsbD_or,
    BitVec.getLsbD_and, BitVec.getLsbD_not, h1, BitVec.getLsbD_shiftLeft, BitVec.getLsbD_setWidth]
  by_cases hjk : j < k
  · have h3 : ¬32 * k + i < 32 * j := by omega
    have h4 : 32 ≤ 32 * k + i - 32 * j := by omega
    simp [h3, BitVec.getLsbD_of_ge _ _ h4]
  · have h3 : 32 * k + i < 32 * j := by omega
    simp [h3]

/-- Three words make a frame. -/
theorem frame_of_words (F : Frame) : wordAt F 2 ++ wordAt F 1 ++ wordAt F 0 = F := by
  refine BitVec.eq_of_getLsbD_eq fun i hi => ?_
  rw [BitVec.getLsbD_append, BitVec.getLsbD_append]
  simp only [wordAt, BitVec.getLsbD_extractLsb']
  by_cases h1 : i < 32
  · simp [h1]
  · by_cases h2 : i < 64
    · rw [show 32 * 1 + (i - 32) = i by omega]
      simp [h1, show i - 32 < 32 by omega]
    · rw [show 32 * 2 + (i - 32 - 32) = i by omega]
      simp [h1, show ¬i - 32 < 32 by omega, show i - 32 - 32 < 32 by omega]

/-- Four words make a 128-bit polynomial. -/
theorem widePoly_of_words (D : WidePoly) : wordAt D 3 ++ wordAt D 2 ++ wordAt D 1 ++ wordAt D 0 = D := by
  refine BitVec.eq_of_getLsbD_eq fun i hi => ?_
  rw [BitVec.getLsbD_append, BitVec.getLsbD_append, BitVec.getLsbD_append]
  simp only [wordAt, BitVec.getLsbD_extractLsb']
  by_cases h1 : i < 32
  · simp [h1]
  · by_cases h2 : i < 64
    · rw [show 32 * 1 + (i - 32) = i by omega]
      simp [h1, show i - 32 < 32 by omega]
    · by_cases h3 : i < 96
      · rw [show 32 * 2 + (i - 32 - 32) = i by omega]
        simp [h1, show ¬i - 32 < 32 by omega, show i - 32 - 32 < 32 by omega]
      · rw [show 32 * 3 + (i - 32 - 32 - 32) = i by omega]
        simp [h1, show ¬i - 32 < 32 by omega, show ¬i - 32 - 32 < 32 by omega, show i - 32 - 32 - 32 < 32 by omega]

@[simp] theorem State.hostFrame_eq (s : State) : s.hostFrame = s.frame := frame_of_words s.frame
@[simp] theorem State.hostDec_eq (s : State) : s.hostDec = s.dec := frame_of_words s.dec
@[simp] theorem State.hostDividend_eq (s : State) : s.hostDividend = s.dividend := widePoly_of_words s.dividend
@[simp] theorem State.hostQuotient_eq (s : State) : s.hostQuotient = s.division.quot := widePoly_of_words s.division.quot
@[simp] theorem State.readReg_divs (s : State) : s.readReg .divs = s.divisor := rfl
@[simp] theorem State.readReg_recordCount (s : State) : s.readReg .recordCount = s.recordCount := rfl
@[simp] theorem State.readReg_align (s : State) : s.readReg .align = s.align := rfl
@[simp] theorem State.readReg_cmd (s : State) : s.readReg .cmd = 0 := rfl

/-! ### What the updates leave the registers reading -/

section Frames

variable (s : State)

@[simp] theorem State.readReg_setInputs (l : List HostEvent) (r : Reg) : (s.setInputs l).readReg r = s.readReg r := by
  cases r <;> rfl

@[simp] theorem State.readReg_setDriver (d : Driver) (r : Reg) : (s.setDriver d).readReg r = s.readReg r := by
  cases r <;> rfl

@[simp] theorem State.readReg_restartDriver (how : Restart) (r : Reg) :
    (s.restartDriver how).readReg r = s.readReg r := by
  cases r <;> rfl

@[simp] theorem State.readReg_observe (v : Option Word) (r : Reg) : (s.observe v).readReg r = s.readReg r := by
  cases v <;> cases r <;> rfl

@[simp] theorem State.readReg_storeWord (o : Nat) (v : Word) (r : Reg) : (s.storeWord o v).readReg r = s.readReg r := by
  cases r <;> rfl

theorem State.readReg_tick (w : Word) (n : Nat) {r : Reg} (h : r ≠ .status) : (s.tick w n).readReg r = s.readReg r := by
  cases r <;> first | rfl | exact absurd rfl h

theorem State.readReg_setAccErr {r : Reg} (h : r ≠ .status) : s.setAccErr.readReg r = s.readReg r := by
  cases r <;> first | rfl | exact absurd rfl h

theorem State.readReg_setBusyWrErr {r : Reg} (h : r ≠ .status) : s.setBusyWrErr.readReg r = s.readReg r := by
  cases r <;> first | rfl | exact absurd rfl h

theorem State.readReg_clearStatus (v : Word) {r : Reg} (h : r ≠ .status) : (s.clearStatus v).readReg r = s.readReg r := by
  cases r <;> first | rfl | exact absurd rfl h

theorem State.readReg_issue (w : Word) {r : Reg} (h : r ≠ .status) : (s.issue w).readReg r = s.readReg r := by
  cases r <;> first | rfl | exact absurd rfl h

theorem State.readReg_complete (c : ResultCode) {r : Reg} (h : r ≠ .status) : (s.complete c).readReg r = s.readReg r := by
  cases r <;> first | rfl | exact absurd rfl h

theorem State.readReg_writeDivision (d : Division) {r : Reg} (h : r ∉ divisionRegs) :
    (s.writeDivision d).readReg r = s.readReg r := by
  cases r <;> first | exact absurd (by decide) h | rfl

theorem State.readReg_writeRecord (x : Record) {r : Reg} (h : r ∉ recordRegs) :
    (s.writeRecord x).readReg r = s.readReg r := by
  cases r <;> first | exact absurd (by decide) h | rfl

theorem State.readReg_writeDec (F : Frame) {r : Reg} (h : r ∉ decRegs) : (s.writeDec F).readReg r = s.readReg r := by
  cases r <;> first | exact absurd (by decide) h | rfl

theorem State.readReg_writeCount (n : Word) {r : Reg} (h : r ≠ .recordCount) :
    (s.writeCount n).readReg r = s.readReg r := by
  cases r <;> first | rfl | exact absurd rfl h

/-- A completion writes RESULT, DONE and BUSY only, so it completes with its code whatever was written before it. -/
theorem State.complete_completed (c : ResultCode) : Completed c [] s (s.complete c) where
  result := rfl
  done := rfl
  idle := rfl
  busyWrErr := rfl
  accErr := rfl
  regs _ h _ := s.readReg_complete c h
  bytes _ := rfl
  mem := rfl
  cfg := rfl
  env := rfl

end Frames

/-! ### Offsets and targets -/

/-- The map has each register at its offset, and no two at one. -/
@[simp] theorem Reg.at?_offset : ∀ r : Reg, Reg.at? r.offset = some r := by intro r; cases r <;> rfl

theorem Reg.offset_of_at? {o : Nat} {r : Reg} (h : Reg.at? o = some r) : r.offset = o := by
  have := List.find?_some h
  simpa using this

theorem Reg.offset_lt (r : Reg) : r.offset < 0x70 := by cases r <;> decide

theorem Reg.offset_aligned (r : Reg) : r.offset % 4 = 0 := by cases r <;> rfl

/-- The registers tile the aligned offsets below 0x70 but for the two holes (R41). -/
theorem Reg.at?_eq_none_iff (o : Nat) (h : o % 4 = 0) : Reg.at? o = none ↔ 0x70 ≤ o ∨ o = 0x3C ∨ o = 0x5C := by
  by_cases ho : 0x70 ≤ o
  · simp only [ho, true_or, iff_true]
    rcases hr : Reg.at? o with _ | r
    · rfl
    · have := Reg.offset_of_at? hr
      have := Reg.offset_lt r
      omega
  · obtain ⟨k, rfl⟩ : ∃ k, o = 4 * k := ⟨o / 4, by omega⟩
    have hk : k < 28 := by omega
    interval_cases k <;> simp [Reg.at?, Reg.all, Reg.offset]

@[simp] theorem Config.target_reg (c : Config) (r : Reg) : Config.target c r.offset .word = .register r := by
  simp [Config.target, Reg.offset_aligned]

theorem Config.target_sample {c : Config} {o : Nat} (h4 : o % 4 = 0) (h1 : sampleBase ≤ o)
    (h2 : o < sampleBase + 2 * c.sampleCap) : Config.target c o .word = .sampleWord o := by
  have hn : Reg.at? o = none := (Reg.at?_eq_none_iff o h4).2 (.inl (by simp [sampleBase] at h1; omega))
  simp [Config.target, h4, hn, Config.sampleOffset, h1, h2]

theorem Config.target_sampleWord {c : Config} {o a : Nat} {w : Width} (h : Config.target c o w = .sampleWord a) :
    a = o ∧ w = .word ∧ o % 4 = 0 ∧ sampleBase ≤ o ∧ o < sampleBase + 2 * c.sampleCap := by
  unfold Config.target at h
  split at h
  · rename_i hw
    split at h
    · cases h
    · split at h
      · rename_i hs
        cases h
        simp only [Config.sampleOffset, Bool.and_eq_true, decide_eq_true_eq] at hs
        exact ⟨rfl, hw.1, hw.2, hs.1, hs.2⟩
      · cases h
  · cases h

theorem Config.target_register {c : Config} {o : Nat} {r : Reg} {w : Width} (h : Config.target c o w = .register r) :
    o = r.offset ∧ w = .word := by
  unfold Config.target at h
  split at h
  · rename_i hw
    split at h
    · rename_i r' hr
      cases h
      exact ⟨(Reg.offset_of_at? hr).symm, hw.1⟩
    · split at h <;> cases h
  · cases h

@[simp] theorem Config.windowOffset?_base (c : Config) (o : Nat) (h : o < windowBytes) :
    Config.windowOffset? c (c.base + o) = some o := by
  simp [Config.windowOffset?, h]

theorem Config.windowOffset?_some {c : Config} {addr o : Nat} (h : Config.windowOffset? c addr = some o) :
    addr = c.base + o ∧ o < windowBytes := by
  unfold Config.windowOffset? at h
  split at h
  · cases h
    omega
  · cases h

end Sys2Proof.Machine
end

