-- ==== Sys2Proof/Laws/Bus.lean ====
section
/-! SUPPORT. Everything one bus access and one host step can do, said once. -/

namespace Sys2Proof.Machine

/-- A host write to a register (R46, R47). -/
theorem State.afterWrite_reg (s : State) (r : Reg) (v : Word) :
    s.afterWrite r.offset .word v = if r.locked && s.busy then s.setBusyWrErr else s.writeReg v r := by
  simp [State.afterWrite]

/-- A host write to a sample word (R46, R47). -/
theorem State.afterWrite_sample (s : State) {o : Nat} (v : Word) (h4 : o % 4 = 0) (h1 : sampleBase ≤ o)
    (h2 : o < sampleBase + 2 * s.cfg.sampleCap) :
    s.afterWrite o .word v = if s.busy then s.setBusyWrErr else s.storeWord o v := by
  simp [State.afterWrite, Config.target_sample h4 h1 h2]

@[simp] theorem State.readValue_reg (s : State) (r : Reg) : s.readValue r.offset .word = s.readReg r := by
  simp [State.readValue]

@[simp] theorem State.afterRead_reg (s : State) (r : Reg) : s.afterRead r.offset .word = s := by
  simp [State.afterRead]

/-- A register access through the bus, at the register's own address (R46, R47). -/
theorem State.afterAccess_write_reg (s : State) (r : Reg) (v : Word) :
    s.afterAccess (.write (s.cfg.base + r.offset) .word v) =
      if r.locked && s.busy then s.setBusyWrErr else s.writeReg v r := by
  have h : r.offset < windowBytes := Nat.lt_trans r.offset_lt (by decide)
  simp only [State.afterAccess, Config.windowOffset?_base _ _ h, State.afterWrite_reg]

theorem State.afterAccess_read_reg (s : State) (r : Reg) : s.afterAccess (.read (s.cfg.base + r.offset) .word) = s := by
  have h : r.offset < windowBytes := Nat.lt_trans r.offset_lt (by decide)
  simp only [State.afterAccess, Config.windowOffset?_base _ _ h, State.afterRead_reg]

theorem State.accessValue_read_reg (s : State) (r : Reg) :
    s.accessValue (.read (s.cfg.base + r.offset) .word) = some (s.readReg r) := by
  have h : r.offset < windowBytes := Nat.lt_trans r.offset_lt (by decide)
  simp only [State.accessValue, Config.windowOffset?_base _ _ h, Option.map_some, State.readValue_reg]

/-- Everything one bus access can do to the block. -/
inductive AccessEffect (s : State) (a : BusAccess) : State → Prop
  /-- A read, a write to a read-only register, or an access outside the window. -/
  | nothing : AccessEffect s a s
  /-- An ignored access (R42). -/
  | accErr : AccessEffect s a s.setAccErr
  /-- A write to a locked resource while BUSY = 1 (R47). -/
  | locked : s.busy = true → AccessEffect s a s.setBusyWrErr
  /-- A write to a register, not locked out (R46). -/
  | register (r : Reg) (v : Word) : a = .write (s.cfg.base + r.offset) .word v → (r.locked && s.busy) = false →
      AccessEffect s a (s.writeReg v r)
  /-- A write to a sample word while BUSY = 0 (R46). -/
  | sample (o : Nat) (v : Word) : a = .write (s.cfg.base + o) .word v → s.busy = false → o % 4 = 0 → sampleBase ≤ o →
      o < sampleBase + 2 * s.cfg.sampleCap → AccessEffect s a (s.storeWord o v)

theorem State.afterAccess_cases (s : State) (a : BusAccess) : AccessEffect s a (s.afterAccess a) := by
  cases a with
  | read addr width =>
    simp only [State.afterAccess]
    split
    · simp only [State.afterRead]
      split
      · exact .nothing
      · exact .nothing
      · exact .accErr
    · exact .nothing
  | write addr width v =>
    simp only [State.afterAccess]
    split
    · rename_i o ho
      obtain ⟨rfl, -⟩ := Config.windowOffset?_some ho
      simp only [State.afterWrite]
      split
      · rename_i r hr
        obtain ⟨rfl, rfl⟩ := Config.target_register hr
        split
        · rename_i hl
          exact .locked (by simpa using (Bool.and_eq_true_iff.1 hl).2)
        · rename_i hl
          exact .register r v rfl (by simpa using hl)
      · rename_i x hx
        obtain ⟨rfl, rfl, h4, h1, h2⟩ := Config.target_sampleWord hx
        split
        · rename_i hb
          exact .locked hb
        · rename_i hb
          exact .sample _ v rfl (by simpa using hb) h4 h1 h2
      · exact .accErr
    · exact .nothing

/-- A write to a register leaves the configuration, the memory, RESULT and the resets alone. -/
theorem State.writeReg_frame (s : State) (v : Word) (r : Reg) :
    (s.writeReg v r).cfg = s.cfg ∧ (s.writeReg v r).mem = s.mem ∧ (s.writeReg v r).result = s.result ∧
      (s.writeReg v r).division = s.division ∧ (s.writeReg v r).record = s.record ∧ (s.writeReg v r).dec = s.dec ∧
      (s.writeReg v r).recordCount = s.recordCount ∧ (s.writeReg v r).env.inputs = s.env.inputs ∧
      (s.writeReg v r).env.driver = s.env.driver ∧ (s.writeReg v r).env.resets = s.env.resets := by
  cases r <;> exact ⟨rfl, rfl, rfl, rfl, rfl, rfl, rfl, rfl, rfl, rfl⟩

/-- Only the write to CMD changes the engine, and only STATUS and CMD change DONE. -/
theorem State.writeReg_engine (s : State) (v : Word) {r : Reg} (h : r ≠ .cmd) : (s.writeReg v r).engine = s.engine := by
  cases r <;> first | rfl | exact absurd rfl h

/-- No bus access changes the configuration, RESULT, a result register, or what the outside world has pending. -/
theorem State.afterAccess_frame (s : State) (a : BusAccess) :
    (s.afterAccess a).cfg = s.cfg ∧ (s.afterAccess a).result = s.result ∧ (s.afterAccess a).division = s.division ∧
      (s.afterAccess a).record = s.record ∧ (s.afterAccess a).dec = s.dec ∧
      (s.afterAccess a).recordCount = s.recordCount ∧ (s.afterAccess a).env.inputs = s.env.inputs ∧
      (s.afterAccess a).env.driver = s.env.driver ∧ (s.afterAccess a).env.resets = s.env.resets := by
  have h := s.afterAccess_cases a
  generalize s.afterAccess a = t at h ⊢
  cases h with
  | register r v _ _ =>
    obtain ⟨h1, _, h3, h4, h5, h6, h7, h8, h9, h10⟩ := s.writeReg_frame v r
    exact ⟨h1, h3, h4, h5, h6, h7, h8, h9, h10⟩
  | _ => exact ⟨rfl, rfl, rfl, rfl, rfl, rfl, rfl, rfl, rfl⟩

/-- While a command runs, no bus access changes the engine or the sample memory. -/
theorem State.afterAccess_busy (s : State) (a : BusAccess) (hb : s.busy = true) :
    (s.afterAccess a).engine = s.engine ∧ (s.afterAccess a).mem = s.mem := by
  have h := s.afterAccess_cases a
  generalize s.afterAccess a = t at h ⊢
  cases h with
  | register r v _ hl =>
    refine ⟨s.writeReg_engine v ?_, (s.writeReg_frame v r).2.1⟩
    rintro rfl
    simp [Reg.locked, hb] at hl
  | sample o v _ hi => simp [hb] at hi
  | _ => exact ⟨rfl, rfl⟩

/-- Taking events off the list changes nothing an access does. -/
theorem State.afterAccess_setInputs (s : State) (l : List HostEvent) (a : BusAccess) :
    (s.setInputs l).afterAccess a = (s.afterAccess a).setInputs l := by
  cases a with
  | read addr width =>
    simp only [State.afterAccess, State.setInputs_cfg]
    split
    · simp only [State.afterRead, State.setInputs_cfg]
      split <;> rfl
    · rfl
  | write addr width v =>
    simp only [State.afterAccess, State.setInputs_cfg]
    split
    · simp only [State.afterWrite, State.setInputs_cfg]
      split
      · rename_i r _
        by_cases hb : (r.locked && s.busy) = true
        · refine (if_pos hb).trans (Eq.trans ?_ (congrArg (State.setInputs l) (if_pos hb).symm))
          rfl
        · refine (if_neg hb).trans (Eq.trans ?_ (congrArg (State.setInputs l) (if_neg hb).symm))
          cases r <;> rfl
      · by_cases hb : s.busy = true
        · refine (if_pos hb).trans (Eq.trans ?_ (congrArg (State.setInputs l) (if_pos hb).symm))
          rfl
        · refine (if_neg hb).trans (Eq.trans ?_ (congrArg (State.setInputs l) (if_neg hb).symm))
          rfl
      · rfl
    · rfl

/-- A turn of the reference driver is its next access and the host computation after it. -/
theorem State.driverTurn?_some {s t : State} (h : s.driverTurn? = some t) :
    ∃ d a, s.env.driver = some d ∧ d.access? s.cfg = some a ∧
      t = (s.afterAccess a).setDriver (d.after ((s.accessValue a).getD 0)) := by
  unfold State.driverTurn? at h
  split at h
  · cases h
  · split at h
    · cases h
    · rename_i _ d hd _ a ha
      cases h
      exact ⟨d, a, hd, ha, rfl⟩

/-- Everything the host's step can be: the block part of it is one bus access or a reset, and the rest is the
environment's. -/
theorem State.hostTurn?_cases {s t : State} (h : s.hostTurn? = some t) :
    (∃ how rest, s.env.inputs = .reset how :: rest ∧ t = (s.setInputs rest).applyReset.restartDriver how) ∨
    (∃ a e, t = { s.afterAccess a with env := e } ∧ e.resets = s.env.resets) ∨
    (∃ e, t = { s with env := e } ∧ e.resets = s.env.resets) := by
  unfold State.hostTurn? at h
  split at h
  · rename_i e rest he
    cases h
    cases e with
    | access a =>
      right; left
      refine ⟨a, ?_⟩
      simp only [State.performEvent, State.afterAccess_setInputs]
      have hr := (State.afterAccess_frame s a).2.2.2.2.2.2.2.2
      cases (s.setInputs rest).accessValue a <;> exact ⟨_, rfl, hr⟩
    | poll addr mask expected =>
      simp only [State.performEvent]
      right
      split
      · left
        rename_i v hv
        have hw : ∃ o, Config.windowOffset? s.cfg addr = some o := by
          rcases ho : Config.windowOffset? s.cfg addr with _ | o
          · simp [State.accessValue, ho] at hv
          · exact ⟨o, rfl⟩
        obtain ⟨o, ho⟩ := hw
        refine ⟨.read addr .word, ?_⟩
        simp only [State.afterAccess, State.setInputs_cfg, ho, State.afterRead]
        split <;> split <;> exact ⟨_, rfl, rfl⟩
      · exact .inr ⟨_, rfl, rfl⟩
    | turn =>
      right
      simp only [State.performEvent]
      rcases ht : (s.setInputs rest).driverTurn? with _ | u
      · exact .inr ⟨_, rfl, rfl⟩
      · obtain ⟨d, a, -, -, rfl⟩ := State.driverTurn?_some ht
        refine .inl ⟨a, ?_⟩
        simp only [State.afterAccess_setInputs]
        exact ⟨_, rfl, (State.afterAccess_frame s a).2.2.2.2.2.2.2.2⟩
    | reset how => exact .inl ⟨how, rest, he, rfl⟩
  · obtain ⟨d, a, -, -, rfl⟩ := State.driverTurn?_some h
    exact .inr (.inl ⟨a, _, rfl, (State.afterAccess_frame s a).2.2.2.2.2.2.2.2⟩)

end Sys2Proof.Machine
end

