-- ==== Sys2Proof/Laws/Step.lean ====
section
/-! SUPPORT. Everything a command and a step can do, said once. -/

namespace Sys2Proof.Machine

/-- What the frame check leaves in the fields it does not write. -/
theorem State.finishCheck_frame (s : State) (F : Frame) :
    (s.finishCheck F).cfg = s.cfg ∧ (s.finishCheck F).mem = s.mem ∧ (s.finishCheck F).env = s.env ∧
      (s.finishCheck F).engine = .idle ∧ (s.finishCheck F).done = true ∧ (s.finishCheck F).result = frameCheck F ∧
      (s.finishCheck F).dec = s.dec := by
  unfold State.finishCheck State.applyOutcome
  split <;> exact ⟨rfl, rfl, rfl, rfl, rfl, rfl, rfl⟩

/-- Every command completes: exec answers a next state, idle, with DONE set, and the configuration, the sample memory and
the outside world unchanged. -/
theorem exec_next (i : Instr) (s : State) :
    ∃ t, exec i s = .next t ∧ t.engine = .idle ∧ t.done = true ∧ t.cfg = s.cfg ∧ t.mem = s.mem ∧ t.env = s.env := by
  cases i with
  | nop => exact ⟨_, rfl, rfl, rfl, rfl, rfl, rfl⟩
  | eval =>
    simp only [exec, execEval]
    split
    · obtain ⟨h1, h2, h3, h4, h5, -, -⟩ := State.finishCheck_frame (s.writeDec (s.decisions s.align.toNat))
        (s.decisions s.align.toNat)
      exact ⟨_, rfl, h4, h5, h1, h2, h3⟩
    · exact ⟨_, rfl, rfl, rfl, rfl, rfl, rfl⟩
  | check =>
    obtain ⟨h1, h2, h3, h4, h5, -, -⟩ := State.finishCheck_frame s s.frame
    exact ⟨_, rfl, h4, h5, h1, h2, h3⟩
  | div => exact ⟨_, rfl, rfl, rfl, rfl, rfl, rfl⟩
  | extract => exact ⟨_, rfl, rfl, rfl, rfl, rfl, rfl⟩
  | clearCount => exact ⟨_, rfl, rfl, rfl, rfl, rfl, rfl⟩

/-- Every latched word completes. -/
theorem runLatched_next (w : Word) (s : State) :
    ∃ t, runLatched w s = .next t ∧ t.engine = .idle ∧ t.done = true ∧ t.cfg = s.cfg ∧ t.mem = s.mem ∧ t.env = s.env := by
  unfold runLatched
  split
  · exact exec_next _ s
  · exact ⟨_, rfl, rfl, rfl, rfl, rfl, rfl⟩

/-- Everything a step can be: a completion, a host step, or an idle block with an idle host. -/
theorem step_cases {s t : State} (h : step s = .next t) :
    (∃ w n, s.engine = .running w n ∧ runLatched w s = .next t) ∨
    (∃ w n, s.engine = .running w (n + 1) ∧ (s.tick w n).hostTurn? = some t) ∨
    (s.engine = .idle ∧ s.hostTurn? = some t) ∨
    (s.engine = .idle ∧ s.hostTurn? = none ∧ t = s) := by
  unfold step at h
  split at h
  · rename_i w hw
    exact .inl ⟨w, 0, hw, h⟩
  · rename_i w n hw
    split at h
    · rename_i u hu
      cases h
      exact .inr (.inl ⟨w, n, hw, hu⟩)
    · exact .inl ⟨w, n + 1, hw, h⟩
  · rename_i hi
    split at h
    · rename_i u hu
      cases h
      exact .inr (.inr (.inl ⟨hi, hu⟩))
    · rename_i hu
      cases h
      exact .inr (.inr (.inr ⟨hi, hu, rfl⟩))

/-- No step faults and none is refused (R180). -/
theorem step_next (s : State) : ∃ t, step s = .next t := by
  unfold step
  split
  · obtain ⟨t, h, -⟩ := runLatched_next (by assumption) s
    exact ⟨t, h⟩
  · split
    · exact ⟨_, rfl⟩
    · obtain ⟨t, h, -⟩ := runLatched_next (by assumption) s
      exact ⟨t, h⟩
  · split <;> exact ⟨_, rfl⟩

end Sys2Proof.Machine
end

