-- ==== Sys2Proof/Laws/Demodulator.lean ====
section
/-! SUPPORT. The integrator and the slicer on a window whose running sums are known, and windows a host has written. -/

namespace Sys2Proof.Machine

theorem runningSums_getD (es : List Int) (acc : Int) (m : Nat) (h : m < es.length) :
    (runningSums acc es).getD m 0 = acc + (es.take (m + 1)).sum := by
  induction es generalizing acc m with
  | nil => simp at h
  | cons e es ih =>
    cases m with
    | zero => simp [runningSums]
    | succ m =>
      have := ih (acc + e) m (by simpa using h)
      simp only [runningSums, List.getD_cons_succ, this, List.take_succ_cons, List.sum_cons]
      omega

theorem packDecisions_congr {b b' : Nat → Bool} (k : Nat) (h : ∀ n < k, b n = b' n) :
    packDecisions b k = packDecisions b' k := by
  induction k with
  | zero => rfl
  | succ k ih => simp [packDecisions, h k (Nat.lt_succ_self k), ih fun n hn => h n (Nat.lt_succ_of_lt hn)]

/-- The sums of a sequence whose sums are `g`. -/
theorem sum_map_range {e g : Nat → Int} {N : Nat} (h0 : g 0 = e 0) (hs : ∀ m, m + 1 < N → g (m + 1) = g m + e (m + 1))
    (m : Nat) (hm : m < N) : ((List.range (m + 1)).map e).sum = g m := by
  induction m with
  | zero => simp [List.range_succ, h0]
  | succ m ih =>
    rw [List.range_succ, List.map_append, List.sum_append, ih (by omega), hs m hm]
    simp

/-- The decisions of a window in terms of any function `g` that is the running sum of its energies. -/
theorem State.decisions_of_sums (s : State) (a : Nat) {e g : Nat → Int}
    (he : ∀ j < 14018, sampleEnergy s.cfg.byteFormat (s.sampleRead (a + j)) = e j)
    (h0 : g 0 = e 0) (hs : ∀ m, m + 1 < 14018 → g (m + 1) = g m + e (m + 1)) :
    s.decisions a =
      packDecisions (fun n => decide (0 < 2 * g (146 * n + 74) - g (146 * n + 1) - g (146 * n + 147))) 96 := by
  have hw : s.windowEnergies a = (List.range 14018).map e :=
    List.map_congr_left fun j hj => he j (List.mem_range.1 hj)
  have hC : ∀ m < 14018, (runningSums 0 (s.windowEnergies a)).getD m 0 = g m := by
    intro m hm
    rw [runningSums_getD _ _ _ (by simpa [hw] using hm), hw, ← List.map_take, List.take_range, Nat.min_eq_left hm,
      sum_map_range h0 hs m hm, Int.zero_add]
  refine packDecisions_congr 96 fun n hn => ?_
  have e1 : n * symbolPeriod + halfSymbol + 1 = 146 * n + 74 := by
    rw [show symbolPeriod = 146 from rfl, show halfSymbol = 73 from rfl]; omega
  have e2 : n * symbolPeriod + 1 = 146 * n + 1 := by rw [show symbolPeriod = 146 from rfl]; omega
  have e3 : n * symbolPeriod + symbolPeriod + 1 = 146 * n + 147 := by rw [show symbolPeriod = 146 from rfl]; omega
  simp only [hardDecision, softValue, e1, e2, e3]
  rw [hC _ (by omega), hC _ (by omega), hC _ (by omega)]

/-- A sample of a memory that lists consecutive bytes from sample 0 on. -/
theorem State.sampleRead_cells (s : State) {bs : List Byte} (hm : s.mem = Memory.cells sampleBase bs) (k : Nat)
    (h : 2 * k + 1 < bs.length) : s.sampleRead k = (bs[2 * k], bs[2 * k + 1]) := by
  simp only [State.sampleRead, State.byteAt, Memory.byteOr, hm, Nat.add_assoc]
  rw [Memory.read_cells _ _ _ (by omega), Memory.read_cells _ _ _ h]

end Sys2Proof.Machine
end

