-- ==== Sys2Proof/Laws/Driver.lean ====
section
/-! SUPPORT. The block load of the reference driver: what the sample memory holds after each word. -/

namespace Sys2Proof.Machine

theorem Memory.writeRun_cells_end (l bs : List Byte) (a x : Nat) (hx : x = a + l.length) :
    Memory.writeRun x bs (Memory.cells a l) = Memory.cells a (l ++ bs) := by
  subst hx
  induction l generalizing a with
  | nil => rfl
  | cons b l ih =>
    have h : a < a + (b :: l).length := by simp
    simp only [Memory.cells, Memory.writeRun, if_pos h, List.cons_append]
    rw [show a + (b :: l).length = a + 1 + l.length by simp; omega, ih]

theorem bytesOfWord_append (h l : BitVec 16) :
    bytesOfWord (h ++ l) = [l.extractLsb' 0 8, l.extractLsb' 8 8, h.extractLsb' 0 8, h.extractLsb' 8 8] := by
  have e : ∀ (i : Nat) (x : BitVec 16) (k : Nat), (∀ j < 8, (h ++ l).getLsbD (8 * i + j) = x.getLsbD (k + j)) →
      byteOfWord (h ++ l) i = x.extractLsb' k 8 := by
    intro i x k hx
    refine BitVec.eq_of_getLsbD_eq fun j hj => ?_
    simp only [byteOfWord, BitVec.getLsbD_extractLsb', hj, decide_true, Bool.true_and]
    exact hx j hj
  rw [bytesOfWord, e 0 l 0, e 1 l 8, e 2 h 0, e 3 h 8]
  all_goals
    intro j hj
    rw [BitVec.getLsbD_append]
  · rw [if_neg (by omega), show 8 * 3 + j - 16 = 8 + j by omega]
  · rw [if_neg (by omega), show 8 * 2 + j - 16 = 0 + j by omega]
  · rw [if_pos (by omega)]
  · rw [if_pos (by omega)]

/-- The bytes of a sample half inside the sequence: I, then Q (R161). -/
theorem Driver.sampleHalf_bytes (d : Driver) {k : Nat} (h : k < d.samples) :
    (d.sampleHalf k).extractLsb' 0 8 = d.bytes.getD (2 * k) 0 ∧ (d.sampleHalf k).extractLsb' 8 8 = d.bytes.getD (2 * k + 1) 0 := by
  rw [Driver.sampleHalf, if_pos h]
  refine ⟨BitVec.eq_of_getLsbD_eq fun j hj => ?_, BitVec.eq_of_getLsbD_eq fun j hj => ?_⟩
  · rw [BitVec.getLsbD_extractLsb', BitVec.getLsbD_append, if_pos (by omega)]
    simp [hj]
  · rw [BitVec.getLsbD_extractLsb', BitVec.getLsbD_append, if_neg (by omega)]
    simp [hj]

theorem take_add_four {l : List Byte} {n : Nat} (h : n + 4 ≤ l.length) :
    l.take (n + 4) = l.take n ++ [l.getD n 0, l.getD (n + 1) 0, l.getD (n + 2) 0, l.getD (n + 3) 0] := by
  rw [List.take_add, List.append_cancel_left_eq]
  refine List.ext_getElem? fun i => ?_
  rcases i with _ | _ | _ | _ | i
  all_goals simp [List.getD_eq_getElem?_getD]
  all_goals rw [List.getElem?_eq_getElem (by omega)]; rfl

/-- The four bytes of a word of the block load that lies inside the sequence (R163, R169). -/
theorem Driver.blockWord_bytes (d : Driver) {m : Nat} (h : 2 * m + 2 ≤ d.blockLength) :
    (d.bytes.drop (2 * d.b)).take (4 * (m + 1)) =
      (d.bytes.drop (2 * d.b)).take (4 * m) ++ bytesOfWord (d.blockWord m) := by
  have hs : d.b + 2 * m + 1 < d.samples := by simp only [Driver.blockLength] at h; omega
  obtain ⟨l0, l1⟩ := d.sampleHalf_bytes (k := d.b + 2 * m) (by omega)
  obtain ⟨h0, h1⟩ := d.sampleHalf_bytes hs
  rw [Driver.blockWord, bytesOfWord_append, l0, l1, h0, h1, show 4 * (m + 1) = 4 * m + 4 by omega]
  rw [take_add_four (by rw [List.length_drop]; simp only [Driver.samples] at hs; omega)]
  simp only [List.getD_eq_getElem?_getD, List.getElem?_drop]
  rw [show 2 * d.b + 4 * m = 2 * (d.b + 2 * m) by omega, show 2 * d.b + (4 * m + 1) = 2 * (d.b + 2 * m) + 1 by omega,
    show 2 * d.b + (4 * m + 2) = 2 * (d.b + 2 * m + 1) by omega,
    show 2 * d.b + (4 * m + 3) = 2 * (d.b + 2 * m + 1) + 1 by omega]

/-! ### The restart after a reset (R210) -/

@[simp] theorem Driver.outerTest_bytes (d : Driver) : d.outerTest.bytes = d.bytes := by
  unfold Driver.outerTest; split <;> rfl
@[simp] theorem Driver.outerTest_p (d : Driver) : d.outerTest.p = d.p := by unfold Driver.outerTest; split <;> rfl
@[simp] theorem Driver.outerTest_b (d : Driver) : d.outerTest.b = d.b := by unfold Driver.outerTest; split <;> rfl
@[simp] theorem Driver.outerTest_records (d : Driver) : d.outerTest.records = d.records := by
  unfold Driver.outerTest; split <;> rfl
@[simp] theorem Driver.outerTest_earlier (d : Driver) : d.outerTest.earlier = d.earlier := by
  unfold Driver.outerTest; split <;> rfl
@[simp] theorem Driver.outerTest_uncounted (d : Driver) : d.outerTest.uncounted = d.uncounted := by
  unfold Driver.outerTest; split <;> rfl

@[simp] theorem Driver.innerTest_bytes (d : Driver) : d.innerTest.bytes = d.bytes := by
  unfold Driver.innerTest; split <;> simp
@[simp] theorem Driver.innerTest_p (d : Driver) : d.innerTest.p = d.p := by unfold Driver.innerTest; split <;> simp
@[simp] theorem Driver.innerTest_records (d : Driver) : d.innerTest.records = d.records := by
  unfold Driver.innerTest; split <;> simp
@[simp] theorem Driver.innerTest_earlier (d : Driver) : d.innerTest.earlier = d.earlier := by
  unfold Driver.innerTest; split <;> simp
@[simp] theorem Driver.innerTest_uncounted (d : Driver) : d.innerTest.uncounted = d.uncounted := by
  unfold Driver.innerTest; split <;> simp

/-- A restart keeps the sequence. -/
@[simp] theorem Driver.restart_bytes (how : Restart) (d : Driver) : (d.restart how).bytes = d.bytes := by
  obtain ⟨bytes, p, b, phase, records, earlier, uncounted⟩ := d
  cases how <;> cases phase <;> simp [Driver.restart, Driver.startAgain, Driver.resume, Driver.start]

/-- A driver's write to a register of an idle block. -/
theorem step_driver_write {s : State} {d : Driver} {r : Reg} {v : Word} (hi : s.engine = .idle)
    (hn : s.env.inputs = []) (hd : s.env.driver = some d)
    (ha : d.access? s.cfg = some (.write (s.cfg.base + r.offset) .word v)) :
    step s = .next ((s.writeReg v r).setDriver (d.after 0)) := by
  have hacc : s.afterAccess (.write (s.cfg.base + r.offset) .word v) = s.writeReg v r := by
    rw [State.afterAccess_write_reg]
    simp [State.busy, hi, Engine.busy]
  simp only [step, hi, State.hostTurn?, hn, State.driverTurn?, hd, ha, hacc]
  rfl

/-- A driver's read of a register of an idle block. -/
theorem step_driver_read {s : State} {d : Driver} {r : Reg} (hi : s.engine = .idle)
    (hn : s.env.inputs = []) (hd : s.env.driver = some d)
    (ha : d.access? s.cfg = some (.read (s.cfg.base + r.offset) .word)) :
    step s = .next (s.setDriver (d.after (s.readReg r))) := by
  simp only [step, hi, State.hostTurn?, hn, State.driverTurn?, hd, ha, State.afterAccess_read_reg,
    State.accessValue_read_reg]
  rfl

/-- One word of the block load, on a block whose memory holds what was loaded so far. -/
theorem step_loadWord {s : State} {d : Driver} {m : Nat} (hi : s.engine = .idle) (hn : s.env.inputs = [])
    (hd : s.env.driver = some d) (hp : d.phase = .loadWord m) (hc : 18688 ≤ s.cfg.sampleCap)
    (hl : 2 * m + 2 ≤ d.blockLength)
    (hm : s.mem = Memory.cells sampleBase ((d.bytes.drop (2 * d.b)).take (4 * m))) :
    step s = .next ({ s with
      mem := Memory.cells sampleBase ((d.bytes.drop (2 * d.b)).take (4 * (m + 1))) }.setDriver (d.after 0)) := by
  have hb : d.blockLength ≤ 18688 := Nat.min_le_left _ _
  have hs : d.blockLength ≤ d.samples - d.b := Nat.min_le_right _ _
  have hacc : s.afterAccess (.write (s.cfg.base + sampleBase + 4 * m) .word (d.blockWord m)) =
      s.storeWord (sampleBase + 4 * m) (d.blockWord m) := by
    rw [Nat.add_assoc]
    simp only [State.afterAccess]
    rw [Config.windowOffset?_base _ _ (by simp only [sampleBase, windowBytes]; omega)]
    simp only
    rw [State.afterWrite_sample _ _ (by simp only [sampleBase]; omega) (by omega) (by omega)]
    simp [State.busy, hi, Engine.busy]
  have hst : s.storeWord (sampleBase + 4 * m) (d.blockWord m) =
      { s with mem := Memory.cells sampleBase ((d.bytes.drop (2 * d.b)).take (4 * (m + 1))) } := by
    rw [State.storeWord, hm, d.blockWord_bytes hl, Memory.writeRun_cells_end]
    rw [List.length_take, List.length_drop]
    simp only [Driver.samples] at hs
    omega
  have ha : d.access? s.cfg = some (.write (s.cfg.base + sampleBase + 4 * m) .word (d.blockWord m)) := by
    simp only [Driver.access?, hp]
  simp only [step, hi, State.hostTurn?, hn, State.driverTurn?, hd, ha, hacc, hst]
  rfl

end Sys2Proof.Machine
end

