-- ==== Sys2Proof/Laws/PerInstr.lean ====
section
/-! SUPPORT. The layout of every command word, command by command (spec/30_encoding.md R60). -/

/-- The word of a command: OPC in [3:0], below 0x6, and [31:4] zero. -/
def Sys2Proof.Laws.WordLayout.Statement (i : Sys2Proof.Instr) : Prop :=
  Sys2Proof.opcField (Sys2Proof.encode i) = i.opc ∧ Sys2Proof.mbzField (Sys2Proof.encode i) = 0 ∧ i.opc.toNat < 6

theorem Sys2Proof.Laws.WordLayout.nop : Sys2Proof.Laws.WordLayout.Statement .nop := by
  unfold Sys2Proof.Laws.WordLayout.Statement; decide

theorem Sys2Proof.Laws.WordLayout.eval : Sys2Proof.Laws.WordLayout.Statement .eval := by
  unfold Sys2Proof.Laws.WordLayout.Statement; decide

theorem Sys2Proof.Laws.WordLayout.check : Sys2Proof.Laws.WordLayout.Statement .check := by
  unfold Sys2Proof.Laws.WordLayout.Statement; decide

theorem Sys2Proof.Laws.WordLayout.div : Sys2Proof.Laws.WordLayout.Statement .div := by
  unfold Sys2Proof.Laws.WordLayout.Statement; decide

theorem Sys2Proof.Laws.WordLayout.extract : Sys2Proof.Laws.WordLayout.Statement .extract := by
  unfold Sys2Proof.Laws.WordLayout.Statement; decide

theorem Sys2Proof.Laws.WordLayout.clearCount : Sys2Proof.Laws.WordLayout.Statement .clearCount := by
  unfold Sys2Proof.Laws.WordLayout.Statement; decide
end

