-- ==== Sys2Proof/Tests/Slice0.lean ====
section
/-! SUPPORT. The model's own tests: words, ill-formed configurations, single steps on the spec's vectors
(spec/95_test_vectors.md), and a witness for the hypotheses of every statement. -/

open Sys2Proof Sys2Proof.Machine

namespace Sys2Proof.Tests

/-- The next state, if the outcome is one. -/
def next (o : Host.Outcome State Fault Refusal) : Option State :=
  match o with
  | .next t => some t
  | .fault _ => none
  | .refused _ => none

/-! ### Words, bit by bit (30_encoding.md R60, R61, R62, R156) -/

theorem test_decode_nop : decodeWord 0b00000000000000000000000000000000#32 = .ok .nop := by decide
theorem test_decode_eval : decodeWord 0b00000000000000000000000000000001#32 = .ok .eval := by decide
theorem test_decode_check : decodeWord 0b00000000000000000000000000000010#32 = .ok .check := by decide
theorem test_decode_div : decodeWord 0b00000000000000000000000000000011#32 = .ok .div := by decide
theorem test_decode_extract : decodeWord 0b00000000000000000000000000000100#32 = .ok .extract := by decide
theorem test_decode_clearCount : decodeWord 0b00000000000000000000000000000101#32 = .ok .clearCount := by decide
theorem test_decode_lowest_illegal : decodeWord 0x00000006#32 = .error (.reservedOpc 0x6) := by decide
theorem test_decode_highest_opc : decodeWord 0x0000000F#32 = .error (.reservedOpc 0xF) := by decide
theorem test_decode_bit4 : decodeWord 0x00000011#32 = .error .mustBeZero := by decide
theorem test_decode_bit31 : decodeWord 0x80000001#32 = .error .mustBeZero := by decide
theorem test_decode_all_ones : decodeWord 0xFFFFFFFF#32 = .error .mustBeZero := by decide
theorem test_encode_div : encode .div = 0x00000003#32 := by decide
theorem test_table_word : decodeTableWord 32 4 = some .extract ∧ decodeTableWord 32 7 = none ∧
    decodeTableWord 64 0 = none := by decide

/-! ### Well-formedness (00_scope.md section 4): a smoke test with an ill-formed term for each check -/

theorem test_instr_wf : [Instr.nop, .eval, .check, .div, .extract, .clearCount].all Instr.wf = true := by decide
theorem test_config_default : Config.default.wf = true := by decide
theorem test_config_smallest : Config.wf ⟨.u8, .dc21, 14018, 0x20000⟩ = true := by decide
theorem test_config_largest : Config.wf ⟨.u8, .dc21, 32768, 0x20000⟩ = true := by decide
theorem test_config_odd_cap : Config.wf ⟨.s8, .dc20, 18689, 0⟩ = false := by decide
theorem test_config_small_cap : Config.wf ⟨.s8, .dc20, 14016, 0⟩ = false := by decide
theorem test_config_large_cap : Config.wf ⟨.s8, .dc20, 32770, 0⟩ = false := by decide
theorem test_config_base : Config.wf ⟨.s8, .dc20, 18688, 0x10000⟩ = false := by decide

/-! ### Constants (W0 of 95_test_vectors.md) -/

theorem test_constants : symbolPeriod = 146 ∧ symbolPeriod * dataRate = sampleRate ∧ halfSymbol = 73 ∧
    windowLength = 14018 ∧ preamble = 0x1F2A60#21 ∧ bchPoly = 0x16F63 ∧ blockSize = 128 * symbolPeriod := by decide

/-! ### One step of each command -/

/-- From reset, with a command word about to complete. -/
def latched (w : Word) : State := State.reset.tick w 0

/-- V-CTRL-2. -/
theorem test_nop : (next (step (latched 0))).map (fun t => t.readReg .status) = some 0x102 := by decide

/-- V-CTRL-4, V-CTRL-5. -/
theorem test_illegal : (next (step (latched 0x7))).map (fun t => t.readReg .status) = some 0x902 ∧
    (next (step (latched 0x11))).map (fun t => t.readReg .status) = some 0x902 := by decide

/-- withFetchWord places a word as the first command after reset (log entry 11): NOP, and an EVAL that does not fit. -/
theorem test_withFetchWord : (next (step (State.reset.withFetchWord 32 0))).map (fun t => t.readReg .status) = some 0x102 ∧
    (next (step (State.reset.withFetchWord 32 1))).map (fun t => t.readReg .status) = some 0x802 := by decide

/-- The end of V-CTRL-20: the count goes to 0 and REC_ID stays. -/
theorem test_clearCount :
    (next (step (((latched 5).writeCount 2).writeRecord ⟨0x0BC614E, 3, 0, 1, 987654⟩))).map
      (fun t => (t.readReg .status, t.readReg .recordCount, t.readReg .recId)) = some (0x102, 0, 0x00BC614E) := by decide

/-- DIVD and DIVS loaded, DIV about to complete. -/
def divState (D : WidePoly) (G : Word) : State := { latched 3 with dividend := D, divisor := G }

/-- What a host reads after DIV: STATUS, DIV_LEN, REM, QUOT. -/
def divResult (D : WidePoly) (G : Word) : Option (Word × Word × Word × WidePoly) :=
  (next (step (divState D G))).map fun t => (t.readReg .status, t.readReg .divLen, t.readReg .rem, t.hostQuotient)

/-- V-DIV-3, V-DIV-10, V-DIV-11, V-DIV-20. -/
theorem test_div_ok : divResult 0xB7B1D 0x16F63 = some (0x102, 0x403, 0x5, 0x8) ∧
    divResult 0x80000000000000000000000000000000 0x16F63 =
      some (0x102, 0x700F, 0x565C, 0x0000BE85CF6628683E8FE4B48FA0C0B4) ∧
    divResult 0xFFFFFFFFFFFFFFFFFFFFFFFFFFFFFFFF 0xFFFFFFFF =
      some (0x102, 0x6100, 0, 0x00000001000000010000000100000001) ∧
    divResult 0xFFFFFFFFFFFFFFFFFFFFFFFFFFFFFFFF 1 =
      some (0x102, 0x8000, 0, 0xFFFFFFFFFFFFFFFFFFFFFFFFFFFFFFFF) := by decide +kernel

/-- V-DIV-4 to V-DIV-7, V-DIV-13. -/
theorem test_div_errors : divResult 0x1 0x16F63 = some (0x502, 0, 0, 0) ∧ divResult 0 0x16F63 = some (0x402, 0, 0, 0) ∧
    divResult 0x1234 0 = some (0x402, 0, 0, 0) ∧ divResult 0 0 = some (0x402, 0, 0, 0) ∧
    divResult 0x8000 0x16F63 = some (0x502, 0, 0, 0) := by decide +kernel

/-- FRAME loaded, a command about to complete. -/
def frameState (w : Word) (F : Frame) : State := { latched w with frame := F }

/-- The frame of W6. -/
def w6 : Frame := 0xF953001A1E240D78C29C7152

/-- V-EXT-3 and V-EXT-16. -/
theorem test_extract_dc20 :
    (next (step (frameState 4 0x00000600000001FFFFFE0000))).map
      (fun t => (t.readReg .status, t.readReg .recId, t.readReg .recInfo, t.readReg .recCons)) =
      some (0x102, 0x03FFFFFF, 0, 0) ∧
    (next (step (frameState 4 w6))).map (fun t => (t.readReg .recId, t.readReg .recInfo, t.readReg .recCons)) =
      some (0x00BC614E, 0x43, 0x000F1206) := by decide +kernel

/-- V-EXT-16 with DC_BASE = 21. -/
theorem test_extract_dc21 :
    (next (step { frameState 4 w6 with cfg := ⟨.s8, .dc21, 18688, 0⟩ })).map
      (fun t => (t.readReg .recId, t.readReg .recInfo, t.readReg .recCons)) =
      some (0x00BC614E, 0x86, 0x001E240D) := by decide +kernel

/-- What a host reads after CHECK: STATUS, REM, QUOT, DIV_LEN, RECORD_COUNT. -/
def checkResult (F : Frame) : Option (Word × Word × WidePoly × Word × Word) :=
  (next (step (frameState 2 F))).map
    fun t => (t.readReg .status, t.readReg .rem, t.hostQuotient, t.readReg .divLen, t.readReg .recordCount)

/-- V-CHK-1, V-CHK-12: a record. -/
theorem test_check_record : checkResult w6 = some (0x702, 0, 0x1ED9EEA133C70E, 0x3500, 1) ∧
    checkResult 0xF95300000000000000016F63 = some (0x702, 0, 1, 0x100, 1) ∧
    (next (step (frameState 2 w6))).map (fun t => t.readReg .recId) = some 0x00BC614E := by decide +kernel

/-- V-CHK-2, V-CHK-4, V-CHK-8, V-CHK-9, V-CHK-11: no record. -/
theorem test_check_others :
    [0x7953001A1E240D78C29C7152, 0xF953041A1E240D78C29C7152, 0xF95300000000000000000000, 0xF95300000000000000000001,
      0xF95300000000000000010000].map checkResult =
    [some (0x202, 0, 0, 0, 0), some (0x302, 0x6D9C, 0x5EAF795907086FA, 0x3B0F, 0), some (0x402, 0, 0, 0, 0),
      some (0x502, 0, 0, 0, 0), some (0x302, 0x6F63, 1, 0x10F, 0)] := by decide +kernel

/-- V-EVAL-13: ALIGN = 0xFFFFFFFF does not wrap. -/
theorem test_eval_range :
    (next (step { latched 1 with nsamp := 18688, align := 0xFFFFFFFF })).map (fun t => (t.readReg .status, t.hostDec)) =
      some (0x802, 0) := by decide

/-- Window sample `j` of frame `F` is ON (95_test_vectors.md W6). -/
def onAt (F : Frame) (j : Nat) : Bool := decide (2 ≤ j) && (decide ((j - 2) % 146 < 73) == F.getMsbD ((j - 2) / 146))

/-- The samples of W6 as bytes, from sample 0 on. -/
def windowBytes (F : Frame) : List Byte := (List.range 28036).map fun i => if onAt F (i / 2) then 0x80 else 0x7F

/-- A block whose sample memory holds these bytes from sample 0 on, about to complete EVAL at ALIGN 0. -/
def loaded (bs : List Byte) : State :=
  { State.reset with nsamp := 14018, mem := Memory.cells sampleBase bs, engine := .running 1 0 }

theorem loaded_fits (bs : List Byte) : (loaded bs).windowFits = true := by
  simp [State.windowFits, loaded, State.reset, windowLength, frameBits, symbolPeriod, sampleRate, dataRate]

theorem loaded_mem (bs : List Byte) : (loaded bs).mem = Memory.cells sampleBase bs := rfl

/-- A block about to complete EVAL on the samples of W6. -/
def windowState (F : Frame) : State := loaded (windowBytes F)

/-- ON samples among window samples 0 to m. -/
def onCount (F : Frame) (m : Nat) : Nat :=
  73 * ((m - 1) / 146) + if F.getMsbD ((m - 1) / 146) then min ((m - 1) % 146) 73 else (m - 1) % 146 - 73

theorem onCount_succ (F : Frame) (m : Nat) : onCount F (m + 1) = onCount F m + (onAt F (m + 1)).toNat := by
  unfold onCount onAt
  rcases m with _ | m
  · simp
  · have h2 : 2 ≤ m + 1 + 1 := by omega
    simp only [h2, decide_true, Bool.true_and, Nat.add_sub_cancel, show m + 1 + 1 - 2 = m by omega]
    by_cases hr : m % 146 = 145
    · have hd : (m + 1) / 146 = m / 146 + 1 := by omega
      have hm : (m + 1) % 146 = 0 := by omega
      rw [hd, hm, hr]
      cases F.getMsbD (m / 146) <;> cases F.getMsbD (m / 146 + 1) <;> simp <;> omega
    · have hd : (m + 1) / 146 = m / 146 := by omega
      have hm : (m + 1) % 146 = m % 146 + 1 := by omega
      rw [hd, hm]
      by_cases hlt : m % 146 < 73
      · cases F.getMsbD (m / 146) <;> simp [hlt] <;> omega
      · cases F.getMsbD (m / 146) <;> simp [hlt] <;> omega

theorem windowBytes_length (F : Frame) : (windowBytes F).length = 28036 := by
  rw [windowBytes, List.length_map, List.length_range]

theorem energy_of_frame {F : Frame} {rest : List Byte} (s : State) (hf : s.cfg.byteFormat = .s8)
    (hm : s.mem = Memory.cells sampleBase (windowBytes F ++ rest)) (j : Nat) (hj : j < 14018) :
    sampleEnergy s.cfg.byteFormat (s.sampleRead (0 + j)) = 130050 * (onAt F j).toNat := by
  have h1 : 2 * (0 + j) + 1 < (windowBytes F).length := by rw [windowBytes_length]; omega
  rw [State.sampleRead_cells s hm _ (by rw [List.length_append]; omega), hf]
  rw [List.getElem_append_left (by omega), List.getElem_append_left h1]
  simp only [windowBytes, List.getElem_map, List.getElem_range, Nat.zero_add]
  rw [show 2 * j / 2 = j by omega, show (2 * j + 1) / 2 = j by omega]
  cases onAt F j <;> rfl

/-- The decisions at alignment 0 of a block that holds the samples of W6 for frame `F`. -/
theorem decisions_of_frame {F : Frame} {rest : List Byte} (s : State) (hf : s.cfg.byteFormat = .s8)
    (hm : s.mem = Memory.cells sampleBase (windowBytes F ++ rest)) : s.decisions 0 =
    packDecisions (fun n => decide (0 < 2 * (130050 * onCount F (146 * n + 74) : Int) -
      130050 * onCount F (146 * n + 1) - 130050 * onCount F (146 * n + 147))) 96 := by
  refine State.decisions_of_sums _ 0 (g := fun m => 130050 * (onCount F m : Int)) (energy_of_frame s hf hm) ?_ ?_
  · cases F.getMsbD 0 <;> simp [onCount, onAt]
  · intro m _
    simp only [onCount_succ]
    push_cast
    ring

/-- V-EVAL-1: the samples of W6 decide to its frame. -/
theorem windowState_w6 : (windowState w6).decisions 0 = w6 := by
  rw [decisions_of_frame (F := w6) (rest := []) (windowState w6) rfl (by rw [List.append_nil]; exact loaded_mem _)]
  decide +kernel

/-- V-EVAL-1: a record, with DEC, REC_ID and RECORD_COUNT. -/
theorem test_eval_record : ∃ t, step (windowState w6) = .next t ∧ t.readReg .status = 0x702 ∧ t.hostDec = w6 ∧
    t.readReg .recId = 0x00BC614E ∧ t.readReg .recordCount = 1 := by
  refine ⟨((windowState w6).writeDec w6).finishCheck w6, ?_, ?_⟩
  · show execEval (windowState w6) = _
    rw [execEval, if_pos (show (windowState w6).windowFits = true from loaded_fits _)]
    show Host.Outcome.next (((windowState w6).writeDec ((windowState w6).decisions 0)).finishCheck
      ((windowState w6).decisions 0)) = _
    rw [windowState_w6]
  · have hf : frameCheck w6 = .record := by decide +kernel
    have ht : ((windowState w6).writeDec w6).finishCheck w6 =
        ((((windowState w6).writeDec w6).writeDivision (frameDivision w6).registers).emitRecord w6).complete .record := by
      rw [State.finishCheck, hf]; rfl
    rw [ht, State.hostDec_eq]
    exact ⟨rfl, rfl, by decide +kernel, rfl⟩

/-! ### V-SCAN-5: the reference driver finds the frame of W6 -/

/-- Some number of steps leads from one state to the other. -/
def Reaches (s t : State) : Prop := ∃ k, core.run k s = .next t

theorem Reaches.step {s t u : State} (h : Machine.step s = .next t) (r : Reaches t u) : Reaches s u := by
  obtain ⟨k, hk⟩ := r
  refine ⟨k + 1, ?_⟩
  simp only [Host.Core.run]
  rw [show core.step s = .next t from h]
  exact hk

/-- The driver at a phase of its first block, on a block whose memory holds `bytes` from sample 0 on. -/
def scanning (bytes loadedBytes : List Byte) (ph : Phase) : State :=
  { State.reset with
    done := true, result := .ok, mem := Memory.cells sampleBase loadedBytes
    env := { Environment.empty with driver := some ⟨bytes, 0, 0, ph, [], [], 0⟩, latencies := [0], issued := 1 } }

/-- A scan about to start, with both of its commands completing at once. -/
def scanStart (bytes : List Byte) : State :=
  { State.reset with env := { Environment.empty with driver := some (Driver.start bytes), latencies := [0, 0] } }

/-- The block just before the completion of the scan's CLEAR_COUNT. -/
def clearing (bytes : List Byte) : State :=
  { State.reset with
    engine := .running 5 0
    env := { Environment.empty with driver := some ⟨bytes, 0, 0, .awaitClear, [], [], 0⟩, latencies := [0], issued := 1 } }

/-- STATUS from its fields. -/
theorem status_eq (s : State) {c : ResultCode} {a b d : Bool} {e : Engine} (hr : s.result = c) (ha : s.accErr = a)
    (hb : s.busyWrErr = b) (hd : s.done = d) (he : s.engine = e) : s.readReg .status =
    0#20 ++ c.code ++ 0#4 ++ BitVec.ofBool a ++ BitVec.ofBool b ++ BitVec.ofBool d ++ BitVec.ofBool e.busy := by
  subst hr ha hb hd he
  rfl

theorem scan_begins {bytes : List Byte} (h : bytes.length = 28092) {u : State}
    (r : Reaches (scanning bytes [] (.loadWord 0)) u) : Reaches (scanStart bytes) u := by
  have ho : Driver.outerTest ⟨bytes, 0, 0, .awaitClear, [], [], 0⟩ = ⟨bytes, 0, 0, .loadWord 0, [], [], 0⟩ := by
    have : 0 + (frameBits * symbolPeriod + alignmentStep) ≤ bytes.length / 2 := by
      simp [h, frameBits, symbolPeriod, alignmentStep, sampleRate, dataRate]
    exact if_pos this
  have h1 : step (scanStart bytes) = .next (clearing bytes) :=
    step_driver_write (d := Driver.start bytes) (r := .cmd) rfl rfl rfl rfl
  have h2 : step (clearing bytes) = .next (scanning bytes [] .awaitClear) := rfl
  have h3 : step (scanning bytes [] .awaitClear) = .next (scanning bytes [] (.loadWord 0)) := by
    rw [step_driver_read (d := ⟨bytes, 0, 0, .awaitClear, [], [], 0⟩) (r := .status) rfl rfl rfl rfl]
    have hp : pollDone 1 0 ((scanning bytes [] .awaitClear).readReg .status) = true := by
      rw [status_eq (scanning bytes [] .awaitClear) (c := .ok) (a := false) (b := false) (d := true) (e := .idle) rfl rfl rfl
        rfl rfl]
      decide
    simp only [Driver.after, if_pos hp, ho]
    rfl
  exact .step h1 (.step h2 (.step h3 r))

theorem scan_loads {bytes : List Byte} (h : bytes.length = 28092) {u : State}
    (r : Reaches (scanning bytes bytes .setNsamp) u) :
    ∀ n, n < 7023 → Reaches (scanning bytes (bytes.take (4 * (7022 - n))) (.loadWord (7022 - n))) u := by
  have hb : ∀ ph, Driver.blockLength ⟨bytes, 0, 0, ph, [], [], 0⟩ = 14046 := by
    intro ph
    simp [Driver.blockLength, Driver.samples, h, blockSize]
  have hs : ∀ m, m < 7023 → step (scanning bytes (bytes.take (4 * m)) (.loadWord m)) =
      .next (State.setDriver (Driver.after 0 ⟨bytes, 0, 0, .loadWord m, [], [], 0⟩)
        (scanning bytes (bytes.take (4 * (m + 1))) (.loadWord m))) := by
    intro m hm
    exact step_loadWord (d := ⟨bytes, 0, 0, .loadWord m, [], [], 0⟩) rfl rfl rfl rfl (Nat.le_refl _) (by rw [hb]; omega) rfl
  intro n
  induction n with
  | zero =>
    intro _
    refine Reaches.step (hs 7022 (by omega)) ?_
    have ha : Driver.after 0 ⟨bytes, 0, 0, .loadWord 7022, [], [], 0⟩ = ⟨bytes, 0, 0, .setNsamp, [], [], 0⟩ := by
      simp [Driver.after, hb]
    rw [ha, show 4 * (7022 + 1) = bytes.length by rw [h], List.take_length]
    exact r
  | succ n ih =>
    intro hn
    refine Reaches.step (hs (7022 - (n + 1)) (by omega)) ?_
    have hm : 7022 - (n + 1) + 1 = 7022 - n := by omega
    have ha : Driver.after 0 ⟨bytes, 0, 0, .loadWord (7022 - (n + 1)), [], [], 0⟩ = ⟨bytes, 0, 0, .loadWord (7022 - n), [], [], 0⟩ := by
      have : 2 * (7022 - (n + 1) + 1) < 14046 := by omega
      rw [← hm]
      simp only [Driver.after, hb, if_pos this]
    rw [ha, hm]
    exact ih (by omega)

/-- The block just before the completion of the scan's EVAL. -/
def evaluating (bytes : List Byte) : State :=
  { State.reset with
    result := .ok, nsamp := 14046, mem := Memory.cells sampleBase bytes, engine := .running 1 0
    env := { Environment.empty with driver := some ⟨bytes, 0, 0, .awaitEval, [], [], 0⟩, issued := 2 } }

theorem evaluating_fits (bytes : List Byte) : (evaluating bytes).windowFits = true := by
  simp [State.windowFits, evaluating, State.reset, windowLength, frameBits, symbolPeriod, sampleRate, dataRate]

theorem evaluating_mem (bytes : List Byte) : (evaluating bytes).mem = Memory.cells sampleBase bytes := rfl

theorem scan_evaluates {bytes : List Byte} (h : bytes.length = 28092) {u : State} (r : Reaches (evaluating bytes) u) :
    Reaches (scanning bytes bytes .setNsamp) u := by
  have hb : ∀ ph, Driver.blockLength ⟨bytes, 0, 0, ph, [], [], 0⟩ = 14046 := by
    intro ph
    simp [Driver.blockLength, Driver.samples, h, blockSize]
  have hi : Driver.innerTest ⟨bytes, 0, 0, .setNsamp, [], [], 0⟩ = ⟨bytes, 0, 0, .setAlign, [], [], 0⟩ := by
    simp [Driver.innerTest, hb, frameBits, symbolPeriod, sampleRate, dataRate]
  have h1 : step (scanning bytes bytes .setNsamp) = .next { scanning bytes bytes .setAlign with nsamp := 14046 } := by
    rw [step_driver_write (d := ⟨bytes, 0, 0, .setNsamp, [], [], 0⟩) (r := .nsamp) rfl rfl rfl rfl]
    show Host.Outcome.next (State.setDriver (Driver.innerTest ⟨bytes, 0, 0, .setNsamp, [], [], 0⟩) _) = _
    rw [hi, hb]
    rfl
  have h2 : step { scanning bytes bytes .setAlign with nsamp := 14046 } =
      .next { scanning bytes bytes .issueEval with nsamp := 14046 } :=
    step_driver_write (d := ⟨bytes, 0, 0, .setAlign, [], [], 0⟩) (r := .align) rfl rfl rfl rfl
  have h3 : step { scanning bytes bytes .issueEval with nsamp := 14046 } = .next (evaluating bytes) :=
    step_driver_write (d := ⟨bytes, 0, 0, .issueEval, [], [], 0⟩) (r := .cmd) rfl rfl rfl rfl
  exact .step h1 (.step h2 (.step h3 r))

/-- V-SCAN-5's input: the frame of W6 at sample 0, then 28 OFF samples. -/
def scanBytes : List Byte := windowBytes w6 ++ List.replicate 56 0x7F

theorem scanBytes_length : scanBytes.length = 28092 := by
  rw [scanBytes, List.length_append, List.length_replicate, windowBytes_length]

theorem evaluating_decisions : (evaluating scanBytes).decisions 0 = w6 := by
  rw [decisions_of_frame (F := w6) (rest := List.replicate 56 0x7F) (evaluating scanBytes) rfl (evaluating_mem _)]
  decide +kernel

/-- V-SCAN-5: one record, at cursor 0. -/
theorem scan_finds_the_frame : ∃ t d, Reaches (scanStart scanBytes) t ∧ t.env.driver = some d ∧
    d.records = [⟨0, ⟨12345678, 3, 0, 1, 987654⟩⟩] := by
  have hf : frameCheck w6 = .record := by decide +kernel
  have he : step (evaluating scanBytes) =
      .next (((((evaluating scanBytes).writeDec w6).writeDivision (frameDivision w6).registers).emitRecord w6).complete
        .record) := by
    show execEval (evaluating scanBytes) = _
    rw [execEval, if_pos (evaluating_fits _)]
    show Host.Outcome.next (((evaluating scanBytes).writeDec ((evaluating scanBytes).decisions 0)).finishCheck
      ((evaluating scanBytes).decisions 0)) = _
    rw [evaluating_decisions, State.finishCheck, hf]
    rfl
  have hx : extractFields .dc20 w6 = ⟨12345678, 3, 0, 1, 987654⟩ := by decide +kernel
  obtain ⟨X, hX, hXe, hXn, hXd, hXr, hXx, hXs⟩ : ∃ X, step (evaluating scanBytes) = .next X ∧ X.engine = .idle ∧
      X.env.inputs = [] ∧ X.env.driver = some ⟨scanBytes, 0, 0, .awaitEval, [], [], 0⟩ ∧
      X.record = ⟨12345678, 3, 0, 1, 987654⟩ ∧ X.cfg = .default ∧ X.readReg .status = 0x702 :=
    ⟨_, he, rfl, rfl, rfl, hx, rfl, (status_eq _ (c := .record) (a := false) (b := false) (d := true)
      (e := .idle) rfl rfl rfl rfl rfl).trans (by decide)⟩
  have hr : ∀ (ph ph' : Phase) (r : Reg), (Driver.access? X.cfg ⟨scanBytes, 0, 0, ph, [], [], 0⟩ =
        some (.read (X.cfg.base + r.offset) .word)) →
      Driver.after (X.readReg r) ⟨scanBytes, 0, 0, ph, [], [], 0⟩ = ⟨scanBytes, 0, 0, ph', [], [], 0⟩ →
      step (X.setDriver ⟨scanBytes, 0, 0, ph, [], [], 0⟩) = .next (X.setDriver ⟨scanBytes, 0, 0, ph', [], [], 0⟩) := by
    intro ph ph' r ha hd
    rw [step_driver_read (s := X.setDriver ⟨scanBytes, 0, 0, ph, [], [], 0⟩) (r := r) hXe hXn rfl ha, State.readReg_setDriver,
      hd]
    rfl
  have e0 : X.setDriver ⟨scanBytes, 0, 0, .awaitEval, [], [], 0⟩ = X := by
    rw [State.setDriver, ← hXd]
  have h1 := hr .awaitEval .readResult .status rfl (by rw [hXs]; rfl)
  have h2 := hr .readResult .readId .status rfl (by rw [hXs]; rfl)
  have h3 := hr .readId (.readInfo (X.readReg .recId)) .recId rfl rfl
  have h4 := hr (.readInfo (X.readReg .recId)) (.readCons (X.readReg .recId) (X.readReg .recInfo)) .recInfo rfl rfl
  have h5 : step (X.setDriver ⟨scanBytes, 0, 0, .readCons (X.readReg .recId) (X.readReg .recInfo), [], [], 0⟩) = .next _ :=
    step_driver_read (r := .recCons) hXe hXn rfl rfl
  rw [e0] at h1
  refine ⟨_, _, scan_begins scanBytes_length (scan_loads scanBytes_length (scan_evaluates scanBytes_length
    (.step hX (.step h1 (.step h2 (.step h3 (.step h4 (.step h5 ⟨0, rfl⟩))))))) 7022 (by omega)), rfl, ?_⟩
  show (Driver.innerTest (Driver.addRecord (recordOfWords _ _ _) _)).records = _
  rw [Driver.innerTest_records]
  show [] ++ [ScanRecord.mk 0 (recordOfWords (X.readReg .recId) (X.readReg .recInfo) (X.readReg .recCons))] = _
  simp only [State.readReg, hXr]
  decide

/-! ### Bus accesses (V-CTRL) -/

/-- V-CTRL-8 and V-CTRL-10: NSAMP is clamped, CTRL keeps one bit. -/
theorem test_bus_clamp : (State.reset.afterWrite 0x10 .word 0xFFFFFFFF).readReg .nsamp = 0x4900 ∧
    (State.reset.afterWrite 0x00 .word 0xFFFFFFFF).readReg .ctrl = 1 := by decide

/-- V-CTRL-12 to V-CTRL-16: a hole, a misaligned write, a byte write, the first offset after the sample memory. -/
theorem test_bus_ignored : State.reset.readValue 0x3C .word = 0 ∧ (State.reset.afterRead 0x3C .word).readReg .status = 8 ∧
    State.reset.afterWrite 0x5C .word 0x1234 = State.reset.setAccErr ∧
    State.reset.afterWrite 0x0E .word 1 = State.reset.setAccErr ∧
    State.reset.afterWrite 0x10000 .byte 0x55 = State.reset.setAccErr ∧
    State.reset.afterWrite 0x19200 .word 0 = State.reset.setAccErr ∧
    (State.reset.afterWrite 0x191FC .word 0x01020304).accErr = false := by decide

/-- V-SAMP-15: the word 0x7F7F8080 is an ON sample and an OFF sample, low byte first. -/
theorem test_bus_sample_word :
    let t := State.reset.afterWrite 0x10000 .word 0x7F7F8080
    t.mem = [(0x10000, 0x80), (0x10001, 0x80), (0x10002, 0x7F), (0x10003, 0x7F)] ∧
    t.readValue 0x10000 .word = 0x7F7F8080 ∧ sampleEnergy .s8 (t.sampleRead 0) = 130050 ∧
    sampleEnergy .s8 (t.sampleRead 1) = 0 := by decide

/-- V-CTRL-25 (a): a write to ALIGN while a NOP runs is lost. -/
theorem test_bus_locked : (next (step ((latched 0).afterWrite 0x0C .word 5))).map
    (fun t => (t.readReg .align, t.readReg .status)) = some (0, 0x106) := by decide

/-- V-SAMP-5 and V-SAMP-8, both formats. -/
theorem test_components : component .s8 0x80 = -255 ∧ component .u8 0x80 = 1 ∧ component .s8 0xFF = -128 ∧
    component .u8 0xFF = 128 := by decide

/-! ### Witnesses: states and operands that meet the hypotheses of each statement -/

theorem witness_SixWordsDecodeAndTheRestAreIllegal : 5 < (6 : Word).toNat ∧ 5 < (0xFFFFFFFF : Word).toNat ∧
    ¬5 < (5 : Word).toNat := by decide

theorem witness_DecodeAndEncodeAgree : Instr.wf .clearCount = true ∧ decodeWord 5 = .ok .clearCount := by decide

/-- Every case of the step: a legal and an illegal word, the completion due, the host first, the host with nothing left, and an
idle block. -/
theorem witness_StepRunsTheLatchedCommand : decodeWord 3 = .ok .div ∧ decodeWord 7 = .error (.reservedOpc 7) ∧
    (latched 7).engine = .running 7 0 ∧ (latched 3).engine = .running 3 0 ∧
    (((latched 3).tick 3 1).tick 3 0).hostTurn? = none ∧
    ((((latched 3).setInputs [.access (.read 4 .word)]).tick 3 0).hostTurn?).isSome = true ∧
    State.reset.engine = .idle ∧ State.reset.hostTurn? = none ∧
    ((State.reset.setInputs [.access (.read 4 .word)]).hostTurn?).isSome = true := by decide

theorem witness_NopChangesOnlyStatus : opcField 0 = 0 ∧ decodeWord 0 = .ok .nop ∧ (latched 0).busy = true := by decide

theorem witness_ClearCountZeroesTheCount : State.reset.readReg .recordCount = 0 := by decide

theorem witness_IllegalWordCompletesWithIllegalCmd : (∃ e, decodeWord 0x11 = .error e) ∧
    ∃ e, decodeWord 0xF = .error e := ⟨⟨.mustBeZero, by decide⟩, ⟨.reservedOpc 0xF, by decide⟩⟩

theorem witness_IssueLatchesTheWord : State.reset.busy = false ∧ (latched 3).busy = true := by decide

/-- A command with latency left, and one that a reset is about to abandon. -/
theorem witness_CommandCompletesWithinItsLatency : (State.reset.tick 1 5).engine = .running 1 5 ∧
    (∃ t, step ((State.reset.setInputs [.reset .fromStart]).tick 0 1) = .next t ∧ t.engine = .idle ∧ t.done = false) ∧
    ∃ t, step (State.reset.tick 0 1) = .next t ∧ t.engine = .idle ∧ t.done = true :=
  ⟨rfl, ⟨_, rfl, rfl, rfl⟩, ⟨_, rfl, rfl, rfl⟩⟩

theorem witness_LatencyDoesNotChangeTheResult :
    ((divState 0xB7B1D 0x16F63).tick 3 7).engine = .running 3 7 ∧
    (((divState 0xB7B1D 0x16F63).setInputs (HostAsm.wait .default)).tick 3 7).env.inputs = HostAsm.wait .default := ⟨rfl, rfl⟩

/-- V-DIV-3: a division that succeeds (hypotheses of DivideLengths, DivideIsLongDivision and DivCommand). -/
theorem witness_DivideLengths : divide 0xB7B1D 0x16F63 = .ok 0x5 0x8 3 4 := by decide

/-- W2: a multiple of BCH_POLY and the same with bit 0 flipped. -/
theorem witness_DivideIsLongDivision : divide (clmul 0x12345 bchPoly) bchPoly = .ok 0 0x12345 0 17 ∧
    divide (clmul 0x12345 bchPoly ^^^ 2 ^ 0) bchPoly = .ok 1 0x12345 1 17 := by decide +kernel

/-- Each premise of DivCommand: no dividend, a divisor too long, the worked example, success, G = 1, D = G and equal lengths (V-DIV-5, V-DIV-13,
V-DIV-3, V-DIV-8, V-DIV-16, V-DIV-12). -/
theorem witness_DivCommand : (divState 0 0x16F63).hostDividend = 0 ∧
    ((divState 0x8000 0x16F63).hostDividend ≠ 0 ∧ (divState 0x8000 0x16F63).readReg .divs ≠ 0 ∧
      bitlen 0x8000 < bitlen 0x16F63) ∧
    ((divState 0xB7B1D 0x16F63).hostDividend = 0xB7B1D ∧ (divState 0xB7B1D 0x16F63).readReg .divs = 0x16F63) ∧
    divide (divState 0xB7B1D 0x16F63).hostDividend.toNat ((divState 0xB7B1D 0x16F63).readReg .divs).toNat = .ok 5 8 3 4 ∧
    ((divState 0xABCD 1).readReg .divs = 1 ∧ (divState 0xABCD 1).hostDividend ≠ 0) ∧
    (divState 4 4).hostDividend.toNat = ((divState 4 4).readReg .divs).toNat ∧
    bitlen (divState 0x16F62 0x16F63).hostDividend.toNat = bitlen ((divState 0x16F62 0x16F63).readReg .divs).toNat := by
  decide +kernel

/-- A slice in the middle, and one that ends at the last frame bit. -/
theorem witness_SliceIsMsbFirst : 21 + 2 ≤ 96 ∧ 95 + 1 ≤ 96 ∧ (frameSlice w6 21 2).toNat = 0 ∧
    (frameSlice w6 95 1).toNat = 0 ∧ (frameSlice w6 0 21) = 0x1F2A60 := by decide +kernel

theorem witness_ExtractCommand : State.reset.cfg.dcBase = .dc20 ∧
    ({ State.reset with cfg := ⟨.u8, .dc21, 14018, 0⟩ } : State).cfg.dcBase = .dc21 ∧
    (frameState 4 0).hostFrame = 0 ∧ (frameState 4 (BitVec.allOnes 96)).hostFrame = BitVec.allOnes 96 ∧
    (frameState 4 w6).hostFrame.extractLsb' 17 58 = (frameState 4 (w6 ^^^ 1)).hostFrame.extractLsb' 17 58 := by
  decide +kernel

/-- The energies of a whole window, and the last symbol. -/
theorem witness_SoftValueIsEarlyMinusLate : (List.replicate 14018 (130050 : Int)).length = 14018 ∧ 95 < 96 :=
  ⟨List.length_replicate, by decide⟩

/-- ALIGN + 14018 = NSAMP, the last alignment that fits, with a window that holds a record (V-EVAL-1); hypotheses of
EvalDecidesByTheFilter and EvalCommand. -/
theorem witness_EvalCommand : (windowState w6).align.toNat + 14018 ≤ (windowState w6).nsamp.toNat ∧
    frameCheck ((windowState w6).decisions (windowState w6).align.toNat) = .record := by
  constructor
  · rw [windowState]; exact Nat.le_refl 14018
  · show frameCheck ((windowState w6).decisions 0) = .record
    rw [windowState_w6]
    decide +kernel

/-- Each outcome of the frame check (V-CHK-1, V-CHK-2, V-CHK-4, V-CHK-8, V-CHK-9, and the largest payload that is too
short). -/
theorem witness_CheckCommand : frameCheck w6 = .record ∧ frameCheck 0x7953001A1E240D78C29C7152 = .noPreamble ∧
    frameCheck 0xF953041A1E240D78C29C7152 = .bchFail ∧ frameCheck 0xF95300000000000000000000 = .divInvalidOperand ∧
    frameCheck 0xF95300000000000000000001 = .divDivisorTooLarge ∧
    frameCheck 0xF9530000000000000000FFFF = .divDivisorTooLarge := by decide +kernel

/-- V-EVAL-3: a window of OFF samples. -/
theorem witness_EqualSamplesGiveNoPreamble : (loaded (List.replicate 28036 0x7F)).align.toNat + 14018 ≤
      (loaded (List.replicate 28036 0x7F)).nsamp.toNat ∧
    ∀ j < 14018, (loaded (List.replicate 28036 0x7F)).energyAt j = 0 := by
  refine ⟨?_, fun j hj => ?_⟩
  · exact Nat.le_refl 14018
  · have hl : ∀ n : Nat, 2 * (0 + j) + 1 < n → sampleEnergy .s8 ((loaded (List.replicate n 0x7F)).sampleRead (0 + j)) = 0 := by
      intro n hn
      rw [State.sampleRead_cells _ (loaded_mem _) _ (by rw [List.length_replicate]; exact hn)]
      simp only [List.getElem_replicate]
      decide
    exact hl 28036 (by omega)

/-- Two memories that differ in sample 0 only. -/
theorem witness_FirstTwoSamplesDoNotMatter : ∀ a, sampleBase + 2 * (State.reset.align.toNat + 2) ≤ a →
    Memory.byteOr 0 [(0x10000, 0x55)] a = State.reset.byteAt a := by
  intro a h
  have h1 : (0x10000 : Nat) < a := Nat.lt_of_lt_of_le (by decide) h
  simp [State.byteAt, Memory.byteOr, Memory.read_cons, h1, State.reset, Environment.empty]

theorem witness_WindowPastNsampIsWindowRange : State.reset.nsamp.toNat < State.reset.align.toNat + 14018 ∧
    (14017 : BitVec 16).toNat < (0 : Word).toNat + 14018 := by decide

/-- Each clause at its boundaries: a byte access, a misaligned offset, the holes, the first and last unmapped offsets, the
first offset after the samples; the last register; the first and last sample words. -/
theorem witness_OtherAccessesOnlySetAccErr : Width.byte ≠ .word ∧ 0x0E % 4 ≠ 0 ∧ State.reset.readValue 0x70 .word = 0 ∧
    Config.target .default 0xFFFC .word = .ignored ∧ 0x10000 + 2 * Config.default.sampleCap = 0x19200 ∧
    Config.target .default 0x6C .word = .register .quotW3 ∧ Config.target .default 0x10000 .word = .sampleWord 0x10000 ∧
    Config.target .default 0x191FC .word = .sampleWord 0x191FC := by decide

theorem witness_LockedWritesAreLost : (latched 1).busy = true ∧ 2 * 9343 < (latched 1).cfg.sampleCap ∧
    Config.target (latched 1).cfg 8 .half = .ignored := by decide

theorem witness_WritesTakeEffect : State.reset.busy = false ∧ State.reset.cfg.wf = true ∧
    2 * 9343 + 1 < State.reset.cfg.sampleCap ∧ Reg.readOnly .recId = true := by decide

/-- A set flag that the write to STATUS clears, and an access that sets the other. -/
theorem witness_BusErrorFlagsAreSticky : State.reset.setAccErr.accErr = true ∧
    (State.reset.setAccErr.afterAccess (.write 4 .word 8)).accErr = false ∧
    State.reset.setBusyWrErr.busyWrErr = true ∧
    (State.reset.setBusyWrErr.afterAccess (.write 4 .word 4)).busyWrErr = false ∧
    ((latched 1).afterAccess (.write 8 .word 0)).busyWrErr = true := by decide

theorem witness_IrqFollowsDoneAndEnable : (State.reset.complete .ok).done = true ∧ State.reset.busy = false ∧
    ((State.reset.complete .ok).afterWrite 0 .word 1).irq = true := by decide

/-- A NOP with one poll before its completion. -/
theorem witness_RunningCommandShowsOldResults : ∃ t,
    step ((State.reset.setInputs (HostAsm.wait .default)).tick 0 1) = .next t ∧ t.busy = true ∧
    ((State.reset.setInputs (HostAsm.wait .default)).tick 0 1).busy = true := ⟨_, rfl, by decide, by decide⟩

/-- A step that counts, one that clears the count, and one that resets it. -/
theorem witness_RecordCountRule : (∃ t, step (frameState 2 w6) = .next t ∧ t.recordCount = 1) ∧
    (∃ t, step ((latched 5).writeCount 2) = .next t ∧ t.recordCount = 0) ∧
    (∃ t, step ((State.reset.writeCount 2).setInputs [.reset .fromCursor]) = .next t ∧ t.recordCount = 0) :=
  ⟨⟨_, rfl, by decide +kernel⟩, ⟨_, rfl, by decide⟩, ⟨_, rfl, by decide⟩⟩

/-- A step that changes the REC registers. -/
theorem witness_RecordRegistersRule : ∃ t, step (frameState 4 w6) = .next t ∧ t.record ≠ (frameState 4 w6).record :=
  ⟨_, rfl, by decide +kernel⟩

/-- Steps that change the sample memory: a host write, with the access it is, and a reset. -/
theorem witness_OnlyTheHostWritesSamples :
    (∃ t, step (State.reset.setInputs [HostAsm.wrs .default 0 0x7F7F8080]) = .next t ∧ t.mem ≠ State.reset.mem) ∧
    (State.reset.setInputs [HostAsm.wrs .default 0 0x7F7F8080]).hostAccess? =
      some (.write 0x10000 .word 0x7F7F8080) ∧
    ∃ t, step ((State.reset.storeWord 0x10000 5).setInputs [.reset .fromStart]) = .next t ∧
      t.mem ≠ (State.reset.storeWord 0x10000 5).mem :=
  ⟨⟨_, rfl, by decide⟩, by decide, ⟨_, rfl, by decide⟩⟩

theorem witness_ConfigurationIsFixed : ∃ t, step (latched 0) = .next t := ⟨_, rfl⟩

/-- Two states alike in the operands and different in every result register, which a CHECK completes with RECORD. -/
theorem witness_CommandsDependOnOperandsOnly :
    let s := frameState 2 w6
    let u := ((frameState 2 w6).writeDivision ⟨1, 1, 1, 1⟩).writeRecord ⟨1, 1, 1, 1, 1⟩
    s.cfg = u.cfg ∧ s.align = u.align ∧ s.nsamp = u.nsamp ∧ s.frame = u.frame ∧ s.dividend = u.dividend ∧
      s.divisor = u.divisor ∧ s.recordCount = u.recordCount ∧ (∀ a, s.byteAt a = u.byteAt a) ∧
      frameCheck s.frame = .record :=
  ⟨rfl, rfl, rfl, rfl, rfl, rfl, rfl, fun _ => rfl, by decide +kernel⟩

theorem witness_ResetInputAbandonsTheCommand : State.reset.engine = .idle ∧ (State.reset.setInputs [.reset .fromCursor]).env.inputs = [.reset .fromCursor] ∧
    ((State.reset.setInputs [.reset .fromCursor]).tick 1 3).engine = .running 1 3 := ⟨rfl, rfl, rfl⟩

/-- A scan in the middle of an EVAL, with one record read, that is about to be reset. -/
def interrupted (bytes : List Byte) (how : Restart) : State :=
  { (evaluating bytes).tick 1 1 with
    recordCount := 1
    env := { Environment.empty with
      inputs := [.reset how], driver := some ⟨bytes, 14016, 11520, .awaitEval, [⟨0, .reset⟩], [], 0⟩ } }

/-- R210: the host goes on at its cursor, with its record, and loads the block again; or it starts again. -/
theorem witness_ResetRestartsTheScan : (∀ bytes how, (interrupted bytes how).env.inputs = [.reset how] ∧
      (interrupted bytes how).engine = .running 1 1) ∧
    (∀ bytes : List Byte, bytes.length = 60000 → ∃ t, step (interrupted bytes .fromCursor) = .next t ∧
      t.recordCount = 0 ∧ t.env.driver = some ⟨bytes, 14016, 11520, .loadWord 0, [⟨0, .reset⟩], [], 1⟩) ∧
    ∀ bytes : List Byte, ∃ t, step (interrupted bytes .fromStart) = .next t ∧
      t.recordCount = 0 ∧ t.env.driver = some ⟨bytes, 0, 0, .clearCount, [], [⟨0, .reset⟩], 0⟩ := by
  refine ⟨fun _ _ => ⟨rfl, rfl⟩, fun bytes h => ⟨_, rfl, rfl, ?_⟩, fun _ => ⟨_, rfl, rfl, rfl⟩⟩
  show some (Driver.outerTest ⟨bytes, 14016, 11520, .awaitEval, [⟨0, .reset⟩], [], 1⟩) = _
  have : 11520 + (frameBits * symbolPeriod + alignmentStep) ≤ bytes.length / 2 := by
    rw [h]
    decide
  simp [Driver.outerTest, Driver.samples, this]

theorem reset_inv : State.reset.Inv where
  config := by decide
  canonical := by decide
  mapped := by decide
  nsamp := by decide
  doneIdle := by decide
  doneRan := by decide
  noInvalidBit := by decide
  remLen := by decide
  quotLen := by decide

theorem witness_LoadMacrosLoadTheOperands : State.reset.engine = .idle ∧
    (State.reset.setInputs (HostAsm.ldframe .default w6)).env.inputs = HostAsm.ldframe .default w6 ∧
    (State.reset.setInputs (HostAsm.lddiv .default 0xB7B1D 3)).env.inputs = HostAsm.lddiv .default 0xB7B1D 3 := ⟨rfl, rfl, rfl⟩

theorem witness_CursorAdvances : resultField 0x202 ≠ 7 ∧ resultField 0x702 = 7 ∧
    (⟨[], 0, 0, .readResult, [], [], 0⟩ : Driver).phase = .readResult ∧
    (⟨[], 0, 0, .readCons 1 2, [], [], 0⟩ : Driver).phase = .readCons 1 2 := by decide

/-- The driver's invariant at its start, and in a block that has found a record. -/
theorem witness_EveryStepKeepsTheDriverInvariant : (Driver.start []).Inv ∧ scanBytes.length = 28092 ∧
    ∀ bytes : List Byte, bytes.length = 28092 → (⟨bytes, 14016, 0, .setNsamp, [⟨0, .reset⟩], [], 0⟩ : Driver).Inv := by
  refine ⟨⟨rfl, ⟨rfl, rfl, rfl⟩, .nil, by simp [Driver.start], by simp [Driver.start]⟩, scanBytes_length,
    fun bytes h => ⟨rfl, ?_, by simp, by simp, by simp⟩⟩
  show 0 + 14046 ≤ bytes.length / 2 ∧ (0 : Nat) ≤ 14016
  omega

/-- The scan's invariant in the middle of an EVAL, with one record read and a reset to come. -/
theorem witness_EveryStepKeepsTheScanCount : ∀ bytes : List Byte, bytes.length = 60000 →
    (interrupted bytes .fromCursor).ScanInv ⟨bytes, 14016, 11520, .awaitEval, [⟨0, .reset⟩], [], 0⟩ := by
  refine fun bytes h => ⟨by simp [interrupted, HostEvent.ofScan], rfl, ⟨by simp, ?_, by simp, by simp, by simp⟩, ?_⟩
  · show 11520 + 14046 ≤ bytes.length / 2 ∧ (11520 : Nat) ≤ 14016 ∧
      (14016 : Nat) + 14016 ≤ 11520 + min 18688 (bytes.length / 2 - 11520)
    rw [h]
    decide
  · refine ⟨fun w n hw => ?_, fun hi => ?_⟩
    · cases hw
      exact ⟨rfl, rfl⟩
    · cases hi

/-- A scan of nothing that is reset once and started again runs to its end. -/
theorem witness_scan_with_reset :
    let s := (scanStart []).setInputs [.turn, .reset .fromStart, .turn]
    (∀ e ∈ s.env.inputs, e.ofScan = true) ∧
    ∃ t, core.run 7 s = .next t ∧ t.env.driver = some ⟨[], 0, 0, .finished 0, [], [], 0⟩ :=
  ⟨by decide, _, rfl, by decide +kernel⟩

/-- V-SCAN-6: a scan of nothing runs to its end, with total 0. -/
theorem witness_ScanTotalIsTheNumberOfRecords : (scanStart []).engine = .idle ∧ (scanStart []).env.inputs = [] ∧
    (scanStart []).env.driver = some (Driver.start []) ∧
    ∃ t, core.run 4 (scanStart []) = .next t ∧ t.env.driver = some ⟨[], 0, 0, .finished 0, [], [], 0⟩ :=
  ⟨rfl, rfl, rfl, _, rfl, by decide +kernel⟩

theorem witness_EveryScanEnds : (scanStart scanBytes).engine = .idle ∧ (scanStart scanBytes).env.inputs = [] ∧
    (scanStart scanBytes).env.driver = some (Driver.start scanBytes) := ⟨rfl, rfl, rfl⟩

/-- A block with room for the driver, and a scan with a record (V-SCAN-5). -/
theorem witness_ScanRecordsAreFramesOfTheSequence : (scanStart scanBytes).cfg.wf = true ∧
    18688 ≤ (scanStart scanBytes).cfg.sampleCap ∧ (scanStart scanBytes).engine = .idle ∧
    (∀ e ∈ (scanStart scanBytes).env.inputs, e.ofScan = true) ∧ (scanStart scanBytes).env.driver = some (Driver.start scanBytes) ∧
    ∃ k t d, core.run k (scanStart scanBytes) = .next t ∧ t.env.driver = some d ∧
      d.records = [⟨0, ⟨12345678, 3, 0, 1, 987654⟩⟩] := by
  obtain ⟨t, d, ⟨k, hk⟩, hd, hr⟩ := scan_finds_the_frame
  exact ⟨by decide, by decide, rfl, by simp [scanStart, Environment.empty], rfl, k, t, d, hk, hd, hr⟩

theorem witness_ShortSequencesAreNotScanned : (List.replicate 28091 (0 : Byte)).length / 2 < 14046 ∧
    (0x102 : Word).getLsbD 0 = false := by
  rw [List.length_replicate]
  decide

end Sys2Proof.Tests
end

section
/-! SUPPORT. The host bus port for the statements of spec/20_memory.md: which accesses are ignored, the sample words by their
index, and what a read of each register returns after a write (R41 to R47). -/

namespace Sys2Proof.Machine

/-! ### Ignored accesses (R42) -/

/-- Narrow, unaligned and unmapped accesses reach nothing. -/
theorem Config.target_ignored {c : Config} {o : Nat} {width : Width}
    (h : width ≠ .word ∨ o % 4 ≠ 0 ∨ o = 0x3C ∨ o = 0x5C ∨ (0x70 ≤ o ∧ o < 0x10000) ∨ 0x10000 + 2 * c.sampleCap ≤ o) :
    Config.target c o width = .ignored := by
  by_cases hw : width = .word ∧ o % 4 = 0
  · obtain ⟨rfl, h4⟩ := hw
    have hreg : Reg.at? o = none := (Reg.at?_eq_none_iff o h4).2 (by simp only [ne_eq, not_true, false_or] at h; omega)
    have hsample : ¬(sampleBase ≤ o ∧ o < sampleBase + 2 * c.sampleCap) := by
      rw [show sampleBase = 0x10000 from rfl]
      simp only [ne_eq, not_true, false_or] at h
      omega
    simp [Config.target, h4, hreg, Config.sampleOffset, hsample]
  · rw [Config.target, if_neg hw]

section Ignored

variable {s : State} {o : Nat} {width : Width} (h : Config.target s.cfg o width = .ignored)
include h

theorem State.readValue_ignored : s.readValue o width = 0 := by rw [State.readValue, h]

theorem State.afterRead_ignored : s.afterRead o width = s.setAccErr := by rw [State.afterRead, h]

theorem State.afterWrite_ignored (v : Word) : s.afterWrite o width v = s.setAccErr := by rw [State.afterWrite, h]

end Ignored

/-- An aligned offset below 0x70 that is none of the two holes is a register's (R41). -/
theorem Reg.exists_offset_eq {o : Nat} (h4 : o % 4 = 0) (h : o < 0x70) (h1 : o ≠ 0x3C) (h2 : o ≠ 0x5C) :
    ∃ r : Reg, r.offset = o := by
  rcases hr : Reg.at? o with _ | r
  · have := (Reg.at?_eq_none_iff o h4).1 hr
    omega
  · exact ⟨r, Reg.offset_of_at? hr⟩

/-- A register write that no lock forbids (R46, R47). -/
theorem State.afterWrite_reg_unlocked (s : State) {r : Reg} (h : r.locked = false ∨ s.busy = false) (v : Word) :
    s.afterWrite r.offset .word v = s.writeReg v r := by
  rw [State.afterWrite_reg, Bool.and_eq_false_iff.2 h, if_neg Bool.false_ne_true]

theorem Reg.locked_of_readOnly {r : Reg} (h : r.readOnly = true) : r.locked = false := by
  revert h
  cases r <;> decide

/-! ### Sample words -/

theorem State.readValue_sample (s : State) {o : Nat} (h4 : o % 4 = 0) (h1 : sampleBase ≤ o)
    (h2 : o < sampleBase + 2 * s.cfg.sampleCap) : s.readValue o .word = s.loadWord o := by
  rw [State.readValue, Config.target_sample h4 h1 h2]

theorem State.afterRead_sample (s : State) {o : Nat} (h4 : o % 4 = 0) (h1 : sampleBase ≤ o)
    (h2 : o < sampleBase + 2 * s.cfg.sampleCap) : s.afterRead o .word = s := by
  rw [State.afterRead, Config.target_sample h4 h1 h2]

/-- The offset of sample word `m` is aligned and in the sample memory (R44). -/
theorem sampleWord_offset {c : Config} {m : Nat} (h : 2 * m < c.sampleCap) :
    (sampleBase + 4 * m) % 4 = 0 ∧ sampleBase ≤ sampleBase + 4 * m ∧
      sampleBase + 4 * m < sampleBase + 2 * c.sampleCap := by
  rw [show sampleBase = 0x10000 from rfl]
  omega

section SampleWord

variable (s : State) {m : Nat} (h : 2 * m < s.cfg.sampleCap)
include h

theorem State.readValue_sampleWord : s.readValue (sampleBase + 4 * m) .word = s.loadWord (sampleBase + 4 * m) := by
  obtain ⟨h4, h1, h2⟩ := sampleWord_offset h
  exact s.readValue_sample h4 h1 h2

theorem State.afterRead_sampleWord : s.afterRead (sampleBase + 4 * m) .word = s := by
  obtain ⟨h4, h1, h2⟩ := sampleWord_offset h
  exact s.afterRead_sample h4 h1 h2

theorem State.afterWrite_sampleWord (v : Word) :
    s.afterWrite (sampleBase + 4 * m) .word v =
      if s.busy then s.setBusyWrErr else s.storeWord (sampleBase + 4 * m) v := by
  obtain ⟨h4, h1, h2⟩ := sampleWord_offset h
  exact s.afterWrite_sample v h4 h1 h2

theorem State.afterWrite_sampleWord_idle (hb : s.busy = false) (v : Word) :
    s.afterWrite (sampleBase + 4 * m) .word v = s.storeWord (sampleBase + 4 * m) v := by
  rw [s.afterWrite_sampleWord h, hb, if_neg Bool.false_ne_true]

end SampleWord

/-- Sample word `m` holds samples `2m` and `2m + 1`, I before Q (R44). -/
theorem State.loadWord_samples (s : State) (m : Nat) :
    s.loadWord (sampleBase + 4 * m) =
      wordOfBytes (s.sampleRead (2 * m)).1 (s.sampleRead (2 * m)).2 (s.sampleRead (2 * m + 1)).1
        (s.sampleRead (2 * m + 1)).2 := by
  simp only [State.loadWord, State.sampleRead, show sampleBase + 2 * (2 * m) = sampleBase + 4 * m by omega,
    show sampleBase + 2 * (2 * m + 1) = sampleBase + 4 * m + 2 by omega]

/-- A store changes no byte outside its four. -/
theorem State.byteAt_storeWord_ne (s : State) {o a : Nat} (v : Word) (h : a < o ∨ o + 4 ≤ a) :
    (s.storeWord o v).byteAt a = s.byteAt a := by
  rw [State.byteAt_storeWord, if_neg (by omega), if_neg (by omega), if_neg (by omega), if_neg (by omega)]

theorem State.sampleRead_storeWord_even (s : State) (m : Nat) (v : Word) :
    (s.storeWord (sampleBase + 4 * m) v).sampleRead (2 * m) = (byteOfWord v 0, byteOfWord v 1) := by
  simp [State.sampleRead, State.byteAt_storeWord, show 2 * (2 * m) = 4 * m by omega]

theorem State.sampleRead_storeWord_odd (s : State) (m : Nat) (v : Word) :
    (s.storeWord (sampleBase + 4 * m) v).sampleRead (2 * m + 1) = (byteOfWord v 2, byteOfWord v 3) := by
  simp [State.sampleRead, State.byteAt_storeWord,
    show sampleBase + 2 * (2 * m + 1) = sampleBase + 4 * m + 2 by omega, Nat.add_assoc]

theorem State.sampleRead_storeWord_ne (s : State) {m k : Nat} (v : Word) (h0 : k ≠ 2 * m) (h1 : k ≠ 2 * m + 1) :
    (s.storeWord (sampleBase + 4 * m) v).sampleRead k = s.sampleRead k := by
  rw [State.sampleRead, s.byteAt_storeWord_ne v (by omega), s.byteAt_storeWord_ne v (by omega), State.sampleRead]

/-! ### Reserved bits (R21) -/

section Reserved

/-- A word that is 0 in its high part has nothing under a mask that is 0 in its low part. -/
theorem zero_append_and_append_zero {m n : Nat} (x : BitVec n) (mask : BitVec m) :
    (0#m ++ x) &&& (mask ++ 0#n) = 0#(m + n) := by
  rw [BitVec.and_append, BitVec.zero_and, BitVec.and_zero, BitVec.zero_append_zero]

variable (s : State)

theorem State.readReg_ctrl_reserved : s.readReg .ctrl &&& 0xFFFFFFFE = 0 :=
  zero_append_and_append_zero (BitVec.ofBool s.ie) 0x7FFFFFFF#31

/-- The word and the mask of the reserved bits, cut at the same places, meet piece by piece. -/
theorem State.readReg_status_reserved : s.readReg .status &&& 0xFFFFF0F0 = 0 := by
  show (0#20 ++ s.result.code ++ 0#4 ++ BitVec.ofBool s.accErr ++ BitVec.ofBool s.busyWrErr ++ BitVec.ofBool s.done ++
    BitVec.ofBool s.busy) &&& (0xFFFFF#20 ++ 0#4 ++ 0xF#4 ++ 0#1 ++ 0#1 ++ 0#1 ++ 0#1) = 0
  simp only [BitVec.and_append, BitVec.zero_and, BitVec.and_zero, BitVec.zero_append_zero]
  rfl

theorem State.readReg_nsamp_reserved : s.readReg .nsamp &&& 0xFFFF0000 = 0 :=
  zero_append_and_append_zero s.nsamp 0xFFFF#16

theorem State.readReg_recId_reserved : s.readReg .recId &&& 0xFC000000 = 0 :=
  zero_append_and_append_zero s.record.meterId 0x3F#6

theorem State.readReg_recInfo_reserved : s.readReg .recInfo &&& 0xFFFFFF00 = 0 := by
  show (0#24 ++ s.record.encTamper ++ s.record.physTamper ++ s.record.meterType) &&&
    (0xFFFFFF#24 ++ 0#2 ++ 0#2 ++ 0#4) = 0
  simp only [BitVec.and_append, BitVec.zero_and, BitVec.and_zero, BitVec.zero_append_zero]
  rfl

theorem State.readReg_recCons_reserved : s.readReg .recCons &&& 0xFF000000 = 0 :=
  zero_append_and_append_zero s.record.consumption 0xFF#8

theorem State.readReg_divLen_reserved : s.readReg .divLen &&& 0xFFFF0000 = 0 := by
  show (0#16 ++ s.division.quotLen ++ s.division.remLen) &&& (0xFFFF#16 ++ 0#8 ++ 0#8) = 0
  simp only [BitVec.and_append, BitVec.zero_and, BitVec.and_zero, BitVec.zero_append_zero]
  rfl

theorem State.readReg_rem_reserved : s.readReg .rem &&& 0x80000000 = 0 :=
  zero_append_and_append_zero s.division.rem 1#1

end Reserved

/-! ### Reading a register after a host write of another or of the same (R46) -/

/-- Word `j` of FRAME (R32). -/
def Reg.frameWord : Fin 3 → Reg
  | 0 => .frameLo
  | 1 => .frameMid
  | 2 => .frameHi

/-- Word `j` of the dividend (R33). -/
def Reg.dividendWord : Fin 4 → Reg
  | 0 => .divdW0
  | 1 => .divdW1
  | 2 => .divdW2
  | 3 => .divdW3

section Writes

variable (s : State) (v : Word)

theorem State.readReg_frameWord (j : Fin 3) : s.readReg (.frameWord j) = wordAt s.frame j := by
  fin_cases j <;> rfl

theorem State.writeReg_frameWord (j : Fin 3) :
    s.writeReg v (.frameWord j) = { s with frame := withWord s.frame j v } := by
  fin_cases j <;> rfl

theorem State.readReg_dividendWord (j : Fin 4) : s.readReg (.dividendWord j) = wordAt s.dividend j := by
  fin_cases j <;> rfl

theorem State.writeReg_dividendWord (j : Fin 4) :
    s.writeReg v (.dividendWord j) = { s with dividend := withWord s.dividend j v } := by
  fin_cases j <;> rfl

/-- Only the words of FRAME read FRAME. -/
theorem State.readReg_withFrame (F : Frame) {q : Reg} (h : ∀ j, q ≠ .frameWord j) :
    State.readReg { s with frame := F } q = s.readReg q := by
  cases q with
  | frameLo => exact absurd rfl (h 0)
  | frameMid => exact absurd rfl (h 1)
  | frameHi => exact absurd rfl (h 2)
  | _ => rfl

/-- Only the words of the dividend read the dividend. -/
theorem State.readReg_withDividend (D : WidePoly) {q : Reg} (h : ∀ j, q ≠ .dividendWord j) :
    State.readReg { s with dividend := D } q = s.readReg q := by
  cases q with
  | divdW0 => exact absurd rfl (h 0)
  | divdW1 => exact absurd rfl (h 1)
  | divdW2 => exact absurd rfl (h 2)
  | divdW3 => exact absurd rfl (h 3)
  | _ => rfl

theorem State.readReg_writeReg_frameWord_self (j : Fin 3) :
    (s.writeReg v (.frameWord j)).readReg (.frameWord j) = v := by
  rw [State.writeReg_frameWord, State.readReg_frameWord]
  exact wordAt_withWord_self _ _ v (by omega)

theorem State.readReg_writeReg_frameWord_ne (j : Fin 3) {q : Reg} (h : q ≠ .frameWord j) :
    (s.writeReg v (.frameWord j)).readReg q = s.readReg q := by
  rw [State.writeReg_frameWord]
  by_cases hq : ∃ k, q = .frameWord k
  · obtain ⟨k, rfl⟩ := hq
    have hjk : j ≠ k := fun e => h (by rw [e])
    rw [State.readReg_frameWord, State.readReg_frameWord]
    exact wordAt_withWord_ne _ _ _ v (by omega) (by omega)
  · exact s.readReg_withFrame _ fun k e => hq ⟨k, e⟩

theorem State.readReg_writeReg_dividendWord_self (j : Fin 4) :
    (s.writeReg v (.dividendWord j)).readReg (.dividendWord j) = v := by
  rw [State.writeReg_dividendWord, State.readReg_dividendWord]
  exact wordAt_withWord_self _ _ v (by omega)

theorem State.readReg_writeReg_dividendWord_ne (j : Fin 4) {q : Reg} (h : q ≠ .dividendWord j) :
    (s.writeReg v (.dividendWord j)).readReg q = s.readReg q := by
  rw [State.writeReg_dividendWord]
  by_cases hq : ∃ k, q = .dividendWord k
  · obtain ⟨k, rfl⟩ := hq
    have hjk : j ≠ k := fun e => h (by rw [e])
    rw [State.readReg_dividendWord, State.readReg_dividendWord]
    exact wordAt_withWord_ne _ _ _ v (by omega) (by omega)
  · exact s.readReg_withDividend _ fun k e => hq ⟨k, e⟩

theorem State.writeReg_readOnly {r : Reg} (h : r.readOnly = true) : s.writeReg v r = s := by
  cases r with
  | ctrl | status | cmd | align | nsamp | divs => cases h
  | frameHi | frameMid | frameLo | divdW0 | divdW1 | divdW2 | divdW3 => cases h
  | _ => rfl

/-- A write to a register but CMD leaves every other register reading as before. -/
theorem State.readReg_writeReg_ne {r q : Reg} (hr : r ≠ .cmd) (h : q ≠ r) :
    (s.writeReg v r).readReg q = s.readReg q := by
  cases r with
  | cmd => exact absurd rfl hr
  | ctrl =>
    cases q with
    | ctrl => exact absurd rfl h
    | _ => rfl
  | align =>
    cases q with
    | align => exact absurd rfl h
    | _ => rfl
  | nsamp =>
    cases q with
    | nsamp => exact absurd rfl h
    | _ => rfl
  | divs =>
    cases q with
    | divs => exact absurd rfl h
    | _ => rfl
  | status => exact s.readReg_clearStatus v h
  | frameLo => exact s.readReg_writeReg_frameWord_ne v 0 h
  | frameMid => exact s.readReg_writeReg_frameWord_ne v 1 h
  | frameHi => exact s.readReg_writeReg_frameWord_ne v 2 h
  | divdW0 => exact s.readReg_writeReg_dividendWord_ne v 0 h
  | divdW1 => exact s.readReg_writeReg_dividendWord_ne v 1 h
  | divdW2 => exact s.readReg_writeReg_dividendWord_ne v 2 h
  | divdW3 => exact s.readReg_writeReg_dividendWord_ne v 3 h
  | _ => rfl

/-- A write to a locked register but CMD and NSAMP reads back. -/
theorem State.readReg_writeReg_self {r : Reg} (hl : r.locked = true) (hc : r ≠ .cmd) (hn : r ≠ .nsamp) :
    (s.writeReg v r).readReg r = v := by
  cases r with
  | cmd => exact absurd rfl hc
  | nsamp => exact absurd rfl hn
  | align | divs => rfl
  | frameLo => exact s.readReg_writeReg_frameWord_self v 0
  | frameMid => exact s.readReg_writeReg_frameWord_self v 1
  | frameHi => exact s.readReg_writeReg_frameWord_self v 2
  | divdW0 => exact s.readReg_writeReg_dividendWord_self v 0
  | divdW1 => exact s.readReg_writeReg_dividendWord_self v 1
  | divdW2 => exact s.readReg_writeReg_dividendWord_self v 2
  | divdW3 => exact s.readReg_writeReg_dividendWord_self v 3
  | _ => cases hl

theorem State.readReg_writeReg_ctrl : (s.writeReg v .ctrl).readReg .ctrl = v &&& 1 := by
  have h : v &&& 1#32 = 0#31 ++ BitVec.ofBool (v.getLsbD 0) := by
    rw [BitVec.and_one_eq_setWidth_ofBool_getLsbD, BitVec.setWidth_eq_append (by decide), BitVec.cast_eq]
  exact h.symm

/-- SAMPLE_CAP is at most 32768, so the stored minimum fits the 16 bits of NSAMP (R15, R26). -/
theorem State.readReg_writeReg_nsamp (hc : s.cfg.wf = true) :
    ((s.writeReg v .nsamp).readReg .nsamp).toNat = min v.toNat s.cfg.sampleCap := by
  have hcap : s.cfg.sampleCap ≤ 32768 := by
    simp only [Config.wf, Bool.and_eq_true, decide_eq_true_eq] at hc
    exact hc.1.2
  show (0#16 ++ BitVec.ofNat 16 (min v.toNat s.cfg.sampleCap)).toNat = _
  rw [BitVec.toNat_append, BitVec.toNat_ofNat, BitVec.toNat_ofNat, Nat.zero_mod, Nat.zero_shiftLeft, Nat.zero_or,
    Nat.mod_eq_of_lt (by omega)]

/-- The complement of the W1C bits of `v`, bit by bit. -/
theorem not_w1c_bits :
    ~~~(v &&& 0xE) = BitVec.allOnes 28 ++ BitVec.ofBool (!v.getLsbD 3) ++ BitVec.ofBool (!v.getLsbD 2) ++
      BitVec.ofBool (!v.getLsbD 1) ++ 1#1 := by
  refine BitVec.eq_of_getLsbD_eq fun i hi => ?_
  rw [BitVec.getLsbD_append, BitVec.getLsbD_append, BitVec.getLsbD_append, BitVec.getLsbD_append]
  interval_cases i <;> simp

/-- A write to STATUS clears the W1C bits where the value has 1 and leaves every other bit (R23). -/
theorem State.readReg_writeReg_status :
    (s.writeReg v .status).readReg .status = s.readReg .status &&& ~~~(v &&& 0xE) := by
  rw [not_w1c_bits]
  have h : (0#20 ++ s.result.code ++ 0#4 ++ BitVec.ofBool s.accErr ++ BitVec.ofBool s.busyWrErr ++
        BitVec.ofBool s.done ++ BitVec.ofBool s.busy) &&&
      (BitVec.allOnes 20 ++ BitVec.allOnes 4 ++ BitVec.allOnes 4 ++ BitVec.ofBool (!v.getLsbD 3) ++
        BitVec.ofBool (!v.getLsbD 2) ++ BitVec.ofBool (!v.getLsbD 1) ++ BitVec.allOnes 1) =
      (s.clearStatus v).statusWord := by
    simp only [BitVec.and_append, BitVec.ofBool_and_ofBool, BitVec.and_allOnes]
    rfl
  exact h.symm

end Writes

end Sys2Proof.Machine
end

section
/-! PROOFS. The statements about the bus and the sample memory (spec/20_memory.md). -/

namespace Sys2Proof.Proofs

open Sys2Proof Sys2Proof.Machine

/-- Settles O30: the target of the access decides, and an ignored one sets ACC_ERR. -/
theorem otherAccessesOnlySetAccErr : Obligations.OtherAccessesOnlySetAccErr := by
  intro s o width v
  refine ⟨fun h => ?_, ?_, ?_⟩
  · have ht := Config.target_ignored h
    exact ⟨State.readValue_ignored ht, State.afterRead_ignored ht, State.afterWrite_ignored ht v⟩
  · rintro rfl h4 ho h1 h2
    obtain ⟨r, rfl⟩ := Reg.exists_offset_eq h4 ho h1 h2
    exact ⟨r, rfl, s.readValue_reg r, fun hl => s.afterWrite_reg_unlocked hl v⟩
  · rintro rfl h4 h1 h2
    refine ⟨s.readValue_sample h4 h1 h2, fun hb => ?_⟩
    rw [State.afterWrite_sample s v h4 h1 h2, hb]
    rfl

/-- Settles O31: the bus rules for reads, then the reserved bits of each register. -/
theorem readsHaveNoSideEffects : Obligations.ReadsHaveNoSideEffects := by
  intro s
  exact ⟨fun r => ⟨s.afterRead_reg r, s.readValue_reg r⟩,
    fun m hm => ⟨s.afterRead_sampleWord hm, s.readValue_sampleWord hm⟩,
    s.readValue_reg .cmd, s.readReg_ctrl_reserved, s.readReg_status_reserved, s.readReg_nsamp_reserved,
    s.readReg_recId_reserved, s.readReg_recInfo_reserved, s.readReg_recCons_reserved, s.readReg_divLen_reserved,
    s.readReg_rem_reserved⟩

/-- Settles O32: each register of the list is locked, CTRL and STATUS are not. -/
theorem lockedWritesAreLost : Obligations.LockedWritesAreLost := by
  intro s v hb
  refine ⟨fun r hr => ?_, fun m hm => ?_, s.afterWrite_reg .ctrl v, s.afterWrite_reg .status v, s.readValue_reg,
    fun o width ht => State.afterWrite_ignored ht v⟩
  · have hl : r.locked = true := by
      revert r
      decide
    rw [State.afterWrite_reg, hl, hb]
    rfl
  · refine (s.afterWrite_sampleWord hm v).trans ?_
    rw [hb]
    rfl

/-- Settles O33: a write that no lock forbids is `State.writeReg` or `State.storeWord`, whose rules say the rest. -/
theorem writesTakeEffect : Obligations.WritesTakeEffect := by
  intro s v hc
  have hmem (r : Reg) : (s.writeReg v r).mem = s.mem := (s.writeReg_frame v r).2.1
  refine ⟨⟨_, s.afterWrite_reg_unlocked (.inl rfl) v, s.readReg_writeReg_ctrl v, hmem _, fun q =>
      s.readReg_writeReg_ne v (by decide)⟩,
    ⟨_, s.afterWrite_reg_unlocked (.inl rfl) v, s.readReg_writeReg_status v, hmem _, fun q =>
      s.readReg_writeReg_ne v (by decide)⟩,
    fun r hr => ?_, fun hb => ⟨fun r hr => ?_, ?_, ?_, fun m hm => ?_⟩⟩
  · rw [s.afterWrite_reg_unlocked (.inl (Reg.locked_of_readOnly hr)), s.writeReg_readOnly v hr]
  · obtain ⟨hl, hcmd, hnsamp⟩ : r.locked = true ∧ r ≠ .cmd ∧ r ≠ .nsamp := by
      revert r
      decide
    exact ⟨_, s.afterWrite_reg_unlocked (.inr hb) v, s.readReg_writeReg_self v hl hcmd hnsamp, hmem r, fun q =>
      s.readReg_writeReg_ne v hcmd⟩
  · exact ⟨_, s.afterWrite_reg_unlocked (.inr hb) v, s.readReg_writeReg_nsamp v hc, hmem _, fun q =>
      s.readReg_writeReg_ne v (by decide)⟩
  · rw [s.afterWrite_reg_unlocked (.inr hb)]
    exact ⟨s.env.nextLatency, rfl⟩
  · exact ⟨_, s.afterWrite_sampleWord_idle (by omega) hb v, s.sampleRead_storeWord_even m v,
      s.sampleRead_storeWord_odd m v, s.readReg_storeWord _ v, fun k => s.sampleRead_storeWord_ne v⟩

/-- Settles O34: a sample word is its two samples, and a store reads back and changes only its four bytes. -/
theorem sampleWordsHoldTwoSamples : Obligations.SampleWordsHoldTwoSamples := by
  intro s m v hm
  have hm' : 2 * m < s.cfg.sampleCap := by omega
  refine ⟨(s.readValue_sampleWord hm').trans (s.loadWord_samples m), fun hb => ?_⟩
  exact ⟨_, s.afterWrite_sampleWord_idle hm' hb v,
    ((s.storeWord _ v).readValue_sampleWord hm').trans (s.loadWord_storeWord _ v), fun _ => s.byteAt_storeWord_ne v⟩

end Sys2Proof.Proofs
end

section
/-! SUPPORT. The decoder: the encoded words decode to their commands, and a reserved OPC or a set MBZ bit is illegal
(spec/30_encoding.md R60 to R63). -/

namespace Sys2Proof

/-- R60: OPC is the low four bits of the word. -/
theorem opcField_toNat (w : Word) : (opcField w).toNat = w.toNat % 16 := by
  simp [opcField, BitVec.extractLsb'_toNat]

/-- R60: MBZ is the rest of the word. -/
theorem mbzField_toNat (w : Word) : (mbzField w).toNat = w.toNat / 16 := by
  have hw : w.toNat / 16 < 2 ^ 28 := by omega
  rw [mbzField, BitVec.extractLsb'_toNat, Nat.shiftRight_eq_div_pow]
  exact Nat.mod_eq_of_lt hw

@[simp] theorem decodeOpc_opc (i : Instr) : decodeOpc i.opc = .ok i := by
  cases i <;> rfl

/-- R60, for the six commands at once. -/
theorem wordLayout (i : Instr) : Laws.WordLayout.Statement i := by
  cases i with
  | nop => exact Laws.WordLayout.nop
  | eval => exact Laws.WordLayout.eval
  | check => exact Laws.WordLayout.check
  | div => exact Laws.WordLayout.div
  | extract => exact Laws.WordLayout.extract
  | clearCount => exact Laws.WordLayout.clearCount

@[simp] theorem decodeWord_encode (i : Instr) : decodeWord (encode i) = .ok i := by
  obtain ⟨hopc, hmbz, -⟩ := wordLayout i
  simp [decodeWord, hopc, hmbz]

/-- R62: the command numbers 0x6 to 0xF are reserved. -/
theorem decodeOpc_reserved {opc : BitVec 4} (h : 5 < opc.toNat) : decodeOpc opc = .error (.reservedOpc opc) := by
  have hne (n : BitVec 4) (hn : n.toNat ≤ 5) : opc ≠ n := by
    rintro rfl
    omega
  simp [decodeOpc, hne]

/-- R62: a word above 5 has a set MBZ bit, or else a reserved command number. -/
theorem decodeWord_illegal {w : Word} (h : 5 < w.toNat) : ∃ e, decodeWord w = .error e := by
  by_cases hmbz : mbzField w = 0#28
  · have hopc : 5 < (opcField w).toNat := by
      have hhigh : w.toNat / 16 = 0 := by rw [← mbzField_toNat, hmbz, BitVec.toNat_ofNat]
      rw [opcField_toNat]
      omega
    exact ⟨_, by rw [decodeWord, if_pos hmbz, decodeOpc_reserved hopc]⟩
  · exact ⟨_, if_neg hmbz⟩

end Sys2Proof
end

section
/-! PROOFS. The statement about the command word (spec/30_encoding.md). -/

namespace Sys2Proof.Proofs

open Sys2Proof

/-- Settles O1: each of the six words is the encoding of its command, and a word above them is illegal. -/
theorem sixWordsDecodeAndTheRestAreIllegal : Obligations.SixWordsDecodeAndTheRestAreIllegal := by
  intro w
  refine ⟨?_, ?_, ?_, ?_, ?_, ?_, decodeWord_illegal⟩
  · rintro rfl
    exact decodeWord_encode .nop
  · rintro rfl
    exact decodeWord_encode .eval
  · rintro rfl
    exact decodeWord_encode .check
  · rintro rfl
    exact decodeWord_encode .div
  · rintro rfl
    exact decodeWord_encode .extract
  · rintro rfl
    exact decodeWord_encode .clearCount

end Sys2Proof.Proofs
end

section
/-! SUPPORT. Lengths and the GF(2) product: `clmul` by the lowest coefficient of its first factor, and the degree of a product
(spec/00_scope.md R16, R18). -/

namespace Sys2Proof.Machine

/-! ### `bitlen` -/

theorem bitlen_le {v n : Nat} : bitlen v ≤ n ↔ v < 2 ^ n := by
  by_cases hv : v = 0
  · simp [bitlen, hv]
  · rw [bitlen, if_neg hv, Nat.succ_le_iff, Nat.log2_lt hv]

theorem bitlen_eq_size (v : Nat) : bitlen v = v.size :=
  eq_of_forall_ge_iff fun _ => bitlen_le.trans Nat.size_le.symm

@[simp] theorem bitlen_zero : bitlen 0 = 0 := rfl

@[simp] theorem bitlen_one : bitlen 1 = 1 := rfl

@[simp] theorem bitlen_eq_zero {v : Nat} : bitlen v = 0 ↔ v = 0 := by
  rw [bitlen_eq_size, Nat.size_eq_zero]

theorem bitlen_pos {v : Nat} (h : v ≠ 0) : 0 < bitlen v := Nat.pos_of_ne_zero (mt bitlen_eq_zero.mp h)

theorem ne_zero_of_bitlen_eq {v u : Nat} (h : bitlen v = bitlen u) (hv : v ≠ 0) : u ≠ 0 := by
  rintro rfl
  exact hv (bitlen_eq_zero.mp h)

theorem bitlen_bit {c : Bool} {v : Nat} (h : Nat.bit c v ≠ 0) : bitlen (Nat.bit c v) = bitlen v + 1 := by
  rw [bitlen_eq_size, bitlen_eq_size, Nat.size_bit h]

theorem bitlen_bit_le (c : Bool) (v : Nat) : bitlen (Nat.bit c v) ≤ bitlen v + 1 := by
  by_cases h : Nat.bit c v = 0
  · simp [h]
  · exact (bitlen_bit h).le

/-- The bits left of the lowest `k`. -/
theorem bitlen_shiftRight_le {v n k : Nat} (h : bitlen v ≤ n + k) : bitlen (v >>> k) ≤ n := by
  rw [bitlen_le, Nat.shiftRight_eq_div_pow, Nat.div_lt_iff_lt_mul (Nat.two_pow_pos k), ← Nat.pow_add]
  exact bitlen_le.mp h

theorem bitlen_toNat_le {w : Nat} (v : BitVec w) : bitlen v.toNat ≤ w := bitlen_le.mpr v.isLt

/-- The highest set bit is bit `bitlen − 1`. -/
theorem testBit_bitlen_sub_one {v : Nat} (h : v ≠ 0) : v.testBit (bitlen v - 1) = true := by
  rw [bitlen, if_neg h]
  exact Nat.testBit_log2 h

theorem bitlen_lt_of_testBit_eq_false {v n : Nat} (hn : n ≠ 0) (h : bitlen v ≤ n) (hb : v.testBit (n - 1) = false) :
    bitlen v < n := by
  refine lt_of_le_of_ne h fun he => ?_
  have hv : v ≠ 0 := by
    rintro rfl
    exact hn he.symm
  rw [← he, testBit_bitlen_sub_one hv] at hb
  cases hb

theorem bitlen_xor_le {v u n : Nat} (hv : bitlen v ≤ n) (hu : bitlen u ≤ n) : bitlen (v ^^^ u) ≤ n :=
  bitlen_le.mpr (Nat.xor_lt_two_pow (bitlen_le.mp hv) (bitlen_le.mp hu))

theorem bitlen_xor_lt {v u n : Nat} (hv : bitlen v < n) (hu : bitlen u < n) : bitlen (v ^^^ u) < n := by
  have h := bitlen_xor_le (Nat.le_sub_one_of_lt hv) (Nat.le_sub_one_of_lt hu)
  omega

/-- Adding a shorter polynomial keeps the length. -/
theorem bitlen_xor_of_lt {v u : Nat} (h : bitlen u < bitlen v) : bitlen (v ^^^ u) = bitlen v := by
  refine le_antisymm (bitlen_xor_le le_rfl h.le) (not_lt.mp fun hlt => ?_)
  have hv := bitlen_xor_lt hlt h
  rw [Nat.xor_xor_cancel_right] at hv
  exact hv.false

/-- Two leading coefficients cancel. -/
theorem bitlen_xor_lt_of_eq {v u : Nat} (hu : u ≠ 0) (h : bitlen v = bitlen u) : bitlen (v ^^^ u) < bitlen u := by
  have hv : v ≠ 0 := ne_zero_of_bitlen_eq h.symm hu
  refine bitlen_lt_of_testBit_eq_false (bitlen_pos hu).ne' (bitlen_xor_le h.le le_rfl) ?_
  rw [Nat.testBit_xor, testBit_bitlen_sub_one hu, ← h, testBit_bitlen_sub_one hv]
  rfl

/-! ### `clmul` -/

/-- `x·v + (x·u + c) = x·(v + u) + c`, addition being XOR. -/
theorem two_mul_xor_bit (v : Nat) (c : Bool) (u : Nat) : 2 * v ^^^ Nat.bit c u = Nat.bit c (v ^^^ u) := by
  rw [← Nat.bit_false_apply, Nat.xor_bit, Bool.false_bne]

theorem two_mul_xor (v u : Nat) : 2 * (v ^^^ u) = 2 * v ^^^ 2 * u := (two_mul_xor_bit v false u).symm

theorem clmulLow_bit (n : Nat) (c : Bool) (a b : Nat) :
    clmulLow (n + 1) (Nat.bit c a) b = 2 * clmulLow n a b ^^^ (if c then b else 0) := by
  induction n with
  | zero => simp [clmulLow]
  | succ n ih =>
    rw [clmulLow, ih, Nat.testBit_bit_succ, clmulLow, two_mul_xor, mul_ite, mul_zero, ← Nat.shiftLeft_succ,
      Nat.xor_right_comm]

@[simp] theorem clmul_zero_left (b : Nat) : clmul 0 b = 0 := rfl

/-- The product by the lowest coefficient of the first factor. -/
theorem clmul_bit (c : Bool) (a b : Nat) : clmul (Nat.bit c a) b = 2 * clmul a b ^^^ (if c then b else 0) := by
  by_cases h : Nat.bit c a = 0
  · obtain ⟨rfl, rfl⟩ := Nat.bit_eq_zero_iff.mp h
    simp
  · rw [clmul, bitlen_bit h, clmulLow_bit]
    rfl

@[simp] theorem clmul_one_left (b : Nat) : clmul 1 b = b := by
  simpa using clmul_bit true 0 b

@[simp] theorem clmul_one_right (a : Nat) : clmul a 1 = a := by
  induction a using Nat.binaryRec with
  | zero => rfl
  | bit c a ih =>
    have hc : (if c then 1 else 0) = Nat.bit c 0 := by cases c <;> rfl
    rw [clmul_bit, ih, hc, two_mul_xor_bit, Nat.xor_zero]

/-- The constant term of a product. -/
theorem clmul_testBit_zero (a b : Nat) : (clmul a b).testBit 0 = (a.testBit 0 && b.testBit 0) := by
  induction a using Nat.bitCasesOn with
  | bit c a =>
    rw [clmul_bit, Nat.testBit_xor, Nat.testBit_bit_zero]
    cases c <;> simp

/-- The product distributes over addition of first factors. -/
theorem clmul_xor_left (a a' b : Nat) : clmul (a ^^^ a') b = clmul a b ^^^ clmul a' b := by
  induction a using Nat.binaryRec generalizing a' with
  | zero => simp
  | bit c a ih =>
    induction a' using Nat.bitCasesOn with
    | bit c' a' =>
      have hc : (if (c != c') then b else 0) = (if c then b else 0) ^^^ (if c' then b else 0) := by
        cases c <;> cases c' <;> simp
      rw [Nat.xor_bit, clmul_bit, clmul_bit, clmul_bit, ih, two_mul_xor, hc]
      ac_rfl

/-- The degree of a product is the sum of the degrees. -/
theorem bitlen_clmul {a b : Nat} (ha : a ≠ 0) (hb : b ≠ 0) : bitlen (clmul a b) + 1 = bitlen a + bitlen b := by
  induction a using Nat.binaryRec with
  | zero => exact absurd rfl ha
  | bit c a ih =>
    rw [clmul_bit, bitlen_bit ha]
    by_cases ha' : a = 0
    · subst ha'
      have hc : c = true := by simpa using ha
      simp [hc, Nat.add_comm]
    · have hdeg := ih ha'
      have hpos := bitlen_pos ha'
      have hne : clmul a b ≠ 0 := by
        intro h0
        have hb' := bitlen_pos hb
        rw [h0, bitlen_zero] at hdeg
        omega
      have htwo : bitlen (2 * clmul a b) = bitlen (clmul a b) + 1 := bitlen_bit (c := false) (by simpa using hne)
      have hlow : bitlen (if c then b else 0) ≤ bitlen b := by cases c <;> simp
      rw [bitlen_xor_of_lt (by omega), htwo]
      omega

end Sys2Proof.Machine
end

section
/-! SUPPORT. The divider: its loop computes a quotient and a remainder, there is only one such pair, and what DIV leaves in the
result registers (spec/40_divider.md R80 to R89). -/

namespace Sys2Proof.Machine

/-! ### Quotient and remainder over GF(2) -/

/-- `Q` and `R` are a quotient and a remainder of `D` by `G` over GF(2) (R88). -/
def IsQuotRem (D G Q R : Nat) : Prop := D = clmul Q G ^^^ R ∧ bitlen R < bitlen G

theorem IsQuotRem.divisor_ne_zero {D G Q R : Nat} (h : IsQuotRem D G Q R) : G ≠ 0 := by
  rintro rfl
  exact Nat.not_lt_zero _ h.2

/-- The lengths add up, as the remainder is too short to change the degree of the product. -/
theorem IsQuotRem.bitlen_add_one {D G Q R : Nat} (h : IsQuotRem D G Q R) (hQ : Q ≠ 0) :
    bitlen D + 1 = bitlen Q + bitlen G := by
  obtain ⟨rfl, hR⟩ := id h
  have hdeg := bitlen_clmul hQ h.divisor_ne_zero
  have hpos := bitlen_pos hQ
  rw [bitlen_xor_of_lt (by omega), hdeg]

/-- The quotient is 0 only when the dividend is shorter than the divisor. -/
theorem IsQuotRem.quot_ne_zero {D G Q R : Nat} (h : IsQuotRem D G Q R) (hle : bitlen G ≤ bitlen D) : Q ≠ 0 := by
  rintro rfl
  obtain ⟨rfl, hR⟩ := h
  rw [clmul_zero_left, Nat.zero_xor] at hle
  omega

theorem isQuotRem_clmul {G : Nat} (hG : G ≠ 0) (M : Nat) : IsQuotRem (clmul M G) G M 0 :=
  ⟨(Nat.xor_zero _).symm, bitlen_pos hG⟩

theorem IsQuotRem.unique {D G Q R Q' R' : Nat} (h : IsQuotRem D G Q R) (h' : IsQuotRem D G Q' R') :
    Q = Q' ∧ R = R' := by
  have hG := h.divisor_ne_zero
  obtain ⟨hD, hR⟩ := h
  obtain ⟨hD', hR'⟩ := h'
  have hprod : clmul (Q ^^^ Q') G = R ^^^ R' := by
    have heq : clmul Q G ^^^ R = clmul Q' G ^^^ R' := hD.symm.trans hD'
    rw [clmul_xor_left]
    calc clmul Q G ^^^ clmul Q' G = (clmul Q G ^^^ R) ^^^ R ^^^ clmul Q' G := by rw [Nat.xor_xor_cancel_right]
      _ = R ^^^ R' ^^^ (clmul Q' G ^^^ clmul Q' G) := by rw [heq]; ac_rfl
      _ = R ^^^ R' := by rw [Nat.xor_self, Nat.xor_zero]
  have hQ : Q ^^^ Q' = 0 := by
    by_contra hne
    have hdeg := bitlen_clmul hne hG
    have hpos := bitlen_pos hne
    have hshort := bitlen_xor_lt hR hR'
    rw [hprod] at hdeg
    omega
  rw [hQ, clmul_zero_left] at hprod
  exact ⟨Nat.xor_eq_zero_iff.mp hQ, Nat.xor_eq_zero_iff.mp hprod.symm⟩

/-! ### The loop (R83) -/

theorem appendQuotient_eq_bit (gl W Q : Nat) : appendQuotient gl W Q = Nat.bit (W.testBit (gl - 1)) Q := by
  rw [appendQuotient, Nat.bit_val]
  cases W.testBit (gl - 1) <;> rfl

theorem bitlen_reduceWindow_lt {G W : Nat} (hG : G ≠ 0) (hW : bitlen W ≤ bitlen G) :
    bitlen (reduceWindow G (bitlen G) W) < bitlen G := by
  have hpos := bitlen_pos hG
  refine bitlen_lt_of_testBit_eq_false hpos.ne' ?_ ?_
  · rw [reduceWindow]
    split
    · exact bitlen_xor_le hW le_rfl
    · exact hW
  · have hG' := testBit_bitlen_sub_one hG
    rw [reduceWindow]
    split
    · next hb => rw [Nat.testBit_xor, hb, hG']; rfl
    · next hb => exact Bool.eq_false_iff.mpr hb

/-- One turn of the loop: with `Q` the quotient so far and `W` the window, of the divisor's length, the next quotient bit and
the reduced window are a quotient and a remainder of the dividend's bits consumed so far. -/
theorem isQuotRem_reduceWindow {G W : Nat} (Q : Nat) (hG : G ≠ 0) (hW : bitlen W ≤ bitlen G) :
    IsQuotRem (2 * clmul Q G ^^^ W) G (appendQuotient (bitlen G) W Q) (reduceWindow G (bitlen G) W) := by
  refine ⟨?_, bitlen_reduceWindow_lt hG hW⟩
  rw [appendQuotient_eq_bit, clmul_bit, reduceWindow]
  cases W.testBit (bitlen G - 1) with
  | false => simp
  | true =>
    rw [if_pos rfl, if_pos rfl, Nat.xor_comm W G, ← Nat.xor_assoc, Nat.xor_xor_cancel_right]

/-- The shift of the loop drops no bit of a reduced window. -/
theorem shiftWindow_eq_bit {W gl : Nat} (c : Bool) (hW : bitlen W < gl) :
    2 * W % 2 ^ gl + c.toNat = Nat.bit c W := by
  have hlt : 2 * W < 2 ^ gl := by
    have := bitlen_le.mp (Nat.le_sub_one_of_lt hW)
    rw [show gl = gl - 1 + 1 by omega, Nat.pow_succ]
    omega
  rw [Nat.mod_eq_of_lt hlt, Nat.bit_val]

/-- The dividend's bits consumed so far, after one more. -/
theorem shiftRight_eq_bit (D left : Nat) : D >>> left = Nat.bit (D.testBit left) (D >>> (left + 1)) := by
  have h := Nat.bit_testBit_zero_shiftRight_one (D >>> left)
  rw [Nat.testBit_shiftRight, ← Nat.shiftRight_add, Nat.add_zero] at h
  exact h.symm

theorem divideLoop_isQuotRem {D G : Nat} (hG : G ≠ 0) (left W Q qlen : Nat) (hW : bitlen W ≤ bitlen G)
    (hD : D >>> left = 2 * clmul Q G ^^^ W) :
    IsQuotRem D G (divideLoop D G (bitlen G) left W Q qlen).2.1 (divideLoop D G (bitlen G) left W Q qlen).1 := by
  induction left generalizing W Q qlen with
  | zero =>
    rw [Nat.shiftRight_zero] at hD
    rw [hD]
    exact isQuotRem_reduceWindow Q hG hW
  | succ left ih =>
    obtain ⟨hturn, hred⟩ := isQuotRem_reduceWindow Q hG hW
    rw [divideLoop, shiftWindow_eq_bit _ hred]
    refine ih _ _ _ ((bitlen_bit_le _ _).trans hred) ?_
    rw [shiftRight_eq_bit, hD, hturn, two_mul_xor_bit]

/-- Each turn appends one quotient bit (R84). -/
theorem divideLoop_qlen (D G gl left W Q qlen : Nat) :
    (divideLoop D G gl left W Q qlen).2.2 = qlen + left + 1 := by
  induction left generalizing W Q qlen with
  | zero => rfl
  | succ left ih =>
    rw [divideLoop, ih]
    omega

/-! ### `Divide` -/

theorem divide_of_zero {D G : Nat} (h : D = 0 ∨ G = 0) : divide D G = .invalidOperand :=
  if_pos (by simpa using h)

theorem divide_of_short {D G : Nat} (hD : D ≠ 0) (hG : G ≠ 0) (h : bitlen D < bitlen G) :
    divide D G = .divisorTooLarge := by
  simp [divide, hD, hG, h]

/-- With good operands `Divide` finds the quotient and the remainder. -/
theorem divide_of_le {D G : Nat} (hG : G ≠ 0) (h : bitlen G ≤ bitlen D) :
    ∃ R Q, IsQuotRem D G Q R ∧ divide D G = .ok R Q (bitlen R) (bitlen D - bitlen G + 1) := by
  have hwin : bitlen (D >>> (bitlen D - bitlen G)) ≤ bitlen G := bitlen_shiftRight_le (by omega)
  have hloop : IsQuotRem D G _ _ := divideLoop_isQuotRem hG (bitlen D - bitlen G) _ 0 0 hwin (by simp)
  refine ⟨_, _, hloop, ?_⟩
  have hD : D ≠ 0 := by
    rintro rfl
    exact hG (bitlen_eq_zero.mp (Nat.le_zero.mp h))
  simp [divide, hD, hG, h.not_gt, divideLoop_qlen]

/-- The one spec of a success: the quotient and the remainder over GF(2), and their lengths (R84, R85, R88). -/
theorem divide_eq_ok_iff {D G R Q rl ql : Nat} :
    divide D G = .ok R Q rl ql ↔ IsQuotRem D G Q R ∧ Q ≠ 0 ∧ rl = bitlen R ∧ ql = bitlen Q := by
  constructor
  · intro h
    by_cases hz : D = 0 ∨ G = 0
    · cases (divide_of_zero hz).symm.trans h
    · obtain ⟨hD, hG⟩ := not_or.mp hz
      by_cases hlt : bitlen D < bitlen G
      · cases (divide_of_short hD hG hlt).symm.trans h
      · obtain ⟨R', Q', hqr, hok⟩ := divide_of_le hG (not_lt.mp hlt)
        have hQ := hqr.quot_ne_zero (not_lt.mp hlt)
        have hlen := hqr.bitlen_add_one hQ
        cases hok.symm.trans h
        exact ⟨hqr, hQ, rfl, by omega⟩
  · rintro ⟨hqr, hQ, rfl, rfl⟩
    have hlen := hqr.bitlen_add_one hQ
    have hpos := bitlen_pos hQ
    obtain ⟨R', Q', hqr', hok⟩ := divide_of_le hqr.divisor_ne_zero (show bitlen G ≤ bitlen D by omega)
    obtain ⟨rfl, rfl⟩ := hqr.unique hqr'
    rw [hok, show bitlen D - bitlen G + 1 = bitlen Q by omega]

/-- A dividend written as product and remainder divides back into them. -/
theorem divide_clmul_xor {G Q R : Nat} (hQ : Q ≠ 0) (hR : bitlen R < bitlen G) :
    divide (clmul Q G ^^^ R) G = .ok R Q (bitlen R) (bitlen Q) :=
  divide_eq_ok_iff.mpr ⟨⟨rfl, hR⟩, hQ, rfl, rfl⟩

/-- A nonzero multiple divides exactly (R88). -/
theorem divide_clmul {G M : Nat} (hM : M ≠ 0) (hG : G ≠ 0) : divide (clmul M G) G = .ok 0 M 0 (bitlen M) := by
  simpa using divide_clmul_xor (R := 0) hM (bitlen_pos hG)

/-- Division by 1 (R89). -/
theorem divide_one {D : Nat} (hD : D ≠ 0) : divide D 1 = .ok 0 D 0 (bitlen D) := by
  simpa using divide_clmul hD Nat.one_ne_zero

/-- Division by a polynomial of the same length (R89). -/
theorem divide_of_bitlen_eq {D G : Nat} (hG : G ≠ 0) (h : bitlen D = bitlen G) :
    divide D G = .ok (D ^^^ G) 1 (bitlen (D ^^^ G)) 1 := by
  have hdiv := divide_clmul_xor (Q := 1) Nat.one_ne_zero (bitlen_xor_lt_of_eq hG h)
  rwa [clmul_one_left, Nat.xor_comm G, Nat.xor_xor_cancel_right, bitlen_one] at hdiv

/-- A power of x is no multiple of a longer polynomial with constant term 1, as the multiplier would lose its lowest
coefficients one by one. -/
theorem two_pow_ne_clmul {G : Nat} (hodd : G.testBit 0 = true) (hlen : 1 < bitlen G) (M k : Nat) : 2 ^ k ≠ clmul M G := by
  induction k generalizing M with
  | zero =>
    intro h
    have hM : M ≠ 0 := by
      rintro rfl
      cases h
    have hG : G ≠ 0 := by
      rintro rfl
      cases hodd
    have hdeg := bitlen_clmul hM hG
    have hpos := bitlen_pos hM
    rw [← h, Nat.pow_zero, bitlen_one] at hdeg
    omega
  | succ k ih =>
    intro h
    induction M using Nat.bitCasesOn with
    | bit c M =>
      have hlow : c = false := by
        have hbit : (clmul (Nat.bit c M) G).testBit 0 = false := by simp [← h, Nat.pow_succ]
        rwa [clmul_testBit_zero, hodd, Bool.and_true, Nat.testBit_bit_zero] at hbit
      rw [clmul_bit, hlow, Nat.pow_succ', if_neg Bool.false_ne_true, Nat.xor_zero] at h
      exact ih M (Nat.eq_of_mul_eq_mul_left Nat.two_pos h)

end Sys2Proof.Machine
end

section
/-! SUPPORT. DIV: what it leaves in the result registers and what it leaves alone (spec/40_divider.md R89). -/

namespace Sys2Proof.Machine

/-- The result registers show the division and nothing else of the state. -/
theorem State.readReg_divisionRegs_congr {s t : State} (h : t.division = s.division) : SameRegs divisionRegs s t := by
  intro r hr
  simp only [divisionRegs, List.mem_cons, List.not_mem_nil, or_false] at hr
  rcases hr with rfl | rfl | rfl | rfl | rfl | rfl <;> simp only [State.readReg, h]

theorem State.readReg_divisionRegs_zero {t : State} (h : t.division = .zero) : ∀ r ∈ divisionRegs, t.readReg r = 0 := by
  intro r hr
  have hreset : ∀ q ∈ divisionRegs, State.reset.readReg q = 0 := by decide
  exact (State.readReg_divisionRegs_congr (s := .reset) h r hr).trans (hreset r hr)

/-- The lengths of a division of a 128-bit dividend by a 32-bit divisor. -/
theorem divide_lengths_le {D G R Q rl ql : Nat} (h : divide D G = .ok R Q rl ql) (hD : bitlen D ≤ 128)
    (hG : bitlen G ≤ 32) : rl ≤ 31 ∧ ql ≤ 128 := by
  obtain ⟨hqr, hQ, rfl, rfl⟩ := divide_eq_ok_iff.mp h
  have hlen := hqr.bitlen_add_one hQ
  have hR := hqr.2
  omega

theorem State.readReg_rem_toNat (s : State) : (s.readReg .rem).toNat = s.division.rem.toNat := by
  show (0#1 ++ s.division.rem).toNat = _
  rw [BitVec.toNat_append, BitVec.toNat_ofNat, Nat.zero_mod, Nat.zero_shiftLeft, Nat.zero_or]

/-- QUOT_LEN stands above REM_LEN (R35). -/
theorem State.readReg_divLen_toNat (s : State) :
    (s.readReg .divLen).toNat = 256 * s.division.quotLen.toNat + s.division.remLen.toNat := by
  show (0#16 ++ s.division.quotLen ++ s.division.remLen).toNat = _
  rw [BitVec.toNat_append, ← Nat.shiftLeft_add_eq_or_of_lt s.division.remLen.isLt, Nat.shiftLeft_eq, Nat.mul_comm,
    BitVec.toNat_append, BitVec.toNat_ofNat, Nat.zero_mod, Nat.zero_shiftLeft, Nat.zero_or]

/-- Quotient, remainder and lengths fit their registers (R35). -/
theorem holdsDivision_of_division {t : State} {D G R Q rl ql : Nat} (h : divide D G = .ok R Q rl ql)
    (hD : bitlen D ≤ 128) (hG : bitlen G ≤ 32) (ht : t.division = (DivideResult.ok R Q rl ql).registers) :
    HoldsDivision R Q rl ql t := by
  obtain ⟨hrl, hql⟩ := divide_lengths_le h hD hG
  obtain ⟨hqr, hQ, hR, hQl⟩ := divide_eq_ok_iff.mp h
  have hR31 : R < 2 ^ 31 := bitlen_le.mp (hR ▸ hrl)
  have hQ128 : Q < 2 ^ 128 := bitlen_le.mp (hQl ▸ hql)
  refine ⟨?_, ?_, ?_⟩
  · rw [State.readReg_rem_toNat, ht]
    exact Nat.mod_eq_of_lt hR31
  · rw [State.hostQuotient_eq, ht]
    exact Nat.mod_eq_of_lt hQ128
  · rw [State.readReg_divLen_toNat, ht]
    show 256 * (ql % 2 ^ 8) + rl % 2 ^ 8 = _
    rw [Nat.mod_eq_of_lt (by omega), Nat.mod_eq_of_lt (by omega)]

/-- A completion after a write of the result registers changes those and STATUS only. -/
theorem State.completed_writeDivision (s : State) (d : Division) (c : ResultCode) :
    Completed c divisionRegs s ((s.writeDivision d).complete c) :=
  { (s.writeDivision d).complete_completed c with
    regs := fun _ hr hw => (State.readReg_complete _ c hr).trans (s.readReg_writeDivision d hw) }

/-- DIV: the division of its operands decides RESULT and the result registers, and all else stays (R89). -/
theorem execDiv_next {s t : State} (h : exec .div s = .next t) :
    t.result = (divide s.hostDividend.toNat (s.readReg .divs).toNat).divCode ∧
      t.division = (divide s.hostDividend.toNat (s.readReg .divs).toNat).registers ∧
      Completed t.result divisionRegs s t := by
  rw [State.hostDividend_eq]
  cases h
  exact ⟨rfl, rfl, s.completed_writeDivision _ _⟩

/-- A second DIV finds the operands unchanged (R89). -/
theorem execDiv_again {s t u : State} (ht : exec .div s = .next t) (hu : exec .div t = .next u) :
    u.result = t.result ∧ u.division = t.division := by
  cases ht
  cases hu
  exact ⟨rfl, rfl⟩

end Sys2Proof.Machine
end

section
/-! PROOFS. The statements about the divider (spec/40_divider.md). -/

namespace Sys2Proof.Proofs

open Sys2Proof Sys2Proof.Machine

/-- Settles O13: uniqueness of quotient and remainder makes every multiple divide exactly, and BCH_POLY divides no power
of x. -/
theorem divideIsLongDivision : Obligations.DivideIsLongDivision := by
  refine ⟨fun D G R Q rl ql h => ?_, fun M G hM hG => ⟨M, bitlen M, divide_clmul hM hG⟩, ?_⟩
  · obtain ⟨hqr, -⟩ := divide_eq_ok_iff.mp h
    obtain ⟨hD, hR⟩ := id hqr
    refine ⟨hD, hR, fun h0 => ⟨Q, by rw [hD, h0, Nat.xor_zero]⟩, ?_⟩
    rintro ⟨M, rfl⟩
    exact (hqr.unique (isQuotRem_clmul hqr.divisor_ne_zero M)).2
  · rintro M k R Q rl ql h rfl
    obtain ⟨⟨hD, -⟩, -⟩ := divide_eq_ok_iff.mp h
    refine two_pow_ne_clmul (G := bchPoly) (by decide) (by decide) (M ^^^ Q) k ?_
    rw [clmul_xor_left, ← hD.trans (Nat.xor_zero _), ← Nat.xor_assoc, Nat.xor_self, Nat.zero_xor]

/-- Settles O12: the degrees of quotient and divisor add up to that of the dividend. -/
theorem divideLengths : Obligations.DivideLengths := by
  intro D G R Q rl ql h
  obtain ⟨hqr, hQ, rfl, rfl⟩ := divide_eq_ok_iff.mp h
  have hlen := hqr.bitlen_add_one hQ
  have hpos := bitlen_pos hQ
  have hG := bitlen_pos hqr.divisor_ne_zero
  have hR : bitlen R ≤ bitlen G - 1 := Nat.le_sub_one_of_lt hqr.2
  exact ⟨by omega, hpos, by omega, rfl, rfl, hR, bitlen_le.mp hR⟩

/-- Settles O14: the cases of `Divide` on the two operands. -/
theorem divCommand : Obligations.DivCommand := by
  intro s
  obtain ⟨t, ht⟩ : ∃ t, exec .div s = .next t := ⟨_, rfl⟩
  obtain ⟨hresult, hdivision, hcompleted⟩ := execDiv_next ht
  refine ⟨t, ht, hcompleted, ?_⟩
  generalize s.hostDividend = D, s.readReg .divs = G at hresult hdivision ⊢
  have hD0 : D.toNat = 0 ↔ D = 0 := BitVec.toNat_inj (y := 0#128)
  have hG0 : G.toNat = 0 ↔ G = 0 := BitVec.toNat_inj (y := 0#32)
  have hok (R Q rl ql : Nat) (h : divide D.toNat G.toNat = .ok R Q rl ql) :
      t.result = .ok ∧ HoldsDivision R Q rl ql t := by
    rw [h] at hresult hdivision
    exact ⟨hresult, holdsDivision_of_division h (bitlen_toNat_le D) (bitlen_toNat_le G) hdivision⟩
  have hequal (hD : D ≠ 0) (h : bitlen D.toNat = bitlen G.toNat) :
      HoldsDivision (D.toNat ^^^ G.toNat) 1 (bitlen (D.toNat ^^^ G.toNat)) 1 t := by
    have hG : G.toNat ≠ 0 := ne_zero_of_bitlen_eq h (hD0.not.mpr hD)
    exact (hok _ _ _ _ (divide_of_bitlen_eq hG h)).2
  refine ⟨fun hz => ?_, fun hD hG hlt => ?_, fun R Q rl ql h => ?_, ?_, ?_, fun h hD => ?_, fun h hD => hequal hD h, ?_⟩
  · rw [divide_of_zero (hD0.or hG0 |>.mpr hz)] at hresult hdivision
    exact ⟨hresult, State.readReg_divisionRegs_zero hdivision⟩
  · rw [divide_of_short (hD0.not.mpr hD) (hG0.not.mpr hG) hlt] at hresult hdivision
    exact ⟨hresult, State.readReg_divisionRegs_zero hdivision⟩
  · obtain ⟨hres, hholds⟩ := hok R Q rl ql h
    exact ⟨hres, hholds, divide_lengths_le h (bitlen_toNat_le D) (bitlen_toNat_le G)⟩
  · rintro rfl rfl
    exact hok 5 8 3 4 (by decide)
  · rintro rfl hD
    exact (hok _ _ _ _ (divide_one (hD0.not.mpr hD))).2
  · simpa [h] using hequal hD (congrArg bitlen h)
  · obtain ⟨u, hu⟩ : ∃ u, exec .div t = .next u := ⟨_, rfl⟩
    obtain ⟨hres, hdiv⟩ := execDiv_again ht hu
    exact ⟨u, hu, hres, State.readReg_divisionRegs_congr hdiv⟩

/-- Settles O11: the three cases of the operands, each with its result. -/
theorem divideRefusesBadOperands : Obligations.DivideRefusesBadOperands := by
  intro D G
  by_cases hz : D = 0 ∨ G = 0
  · have hnot : ¬(D ≠ 0 ∧ G ≠ 0) := not_and_or.mpr (by simpa using hz)
    simp [divide_of_zero hz, hz, ← and_assoc, hnot]
  · obtain ⟨hD, hG⟩ := not_or.mp hz
    by_cases hlt : bitlen D < bitlen G
    · simp [divide_of_short hD hG hlt, hD, hG, hlt]
    · obtain ⟨R, Q, -, hok⟩ := divide_of_le hG (not_lt.mp hlt)
      simp [hok, hD, hG, not_lt.mp hlt]

end Sys2Proof.Proofs
end

section
/-! SUPPORT. Frame slices: the frame bits they hold, their value and their concatenation; the frame bits that the extractor
reads (spec/41_field_extractor.md R101 to R108). -/

namespace Sys2Proof.Machine

/-! ### Slices -/

/-- Bit `j` of a slice is a frame bit, the last one at `j = 0` (R17). -/
theorem getLsbD_frameSlice (F : Frame) {a w j : Nat} (h : a + w ≤ 96) (hj : j < w) :
    (frameSlice F a w).getLsbD j = F.getMsbD (a + w - 1 - j) := by
  rw [frameSlice, BitVec.getLsbD_extractLsb', BitVec.getMsbD_eq_getLsbD, decide_eq_true hj,
    decide_eq_true (show a + w - 1 - j < 96 by omega), show 96 - 1 - (a + w - 1 - j) = 96 - (a + w) + j by omega]

/-- A slice depends on its own frame bits only. -/
theorem frameSlice_congr {F G : Frame} {a w : Nat} (h : a + w ≤ 96)
    (hFG : ∀ i, a ≤ i → i < a + w → F.getMsbD i = G.getMsbD i) : frameSlice F a w = frameSlice G a w := by
  refine BitVec.eq_of_getLsbD_eq fun j hj => ?_
  rw [getLsbD_frameSlice F h hj, getLsbD_frameSlice G h hj]
  exact hFG _ (by omega) (by omega)

/-- A slice one bit longer appends the next frame bit. -/
theorem frameSlice_succ (F : Frame) {a w : Nat} (h : a + (w + 1) ≤ 96) :
    frameSlice F a (w + 1) = (frameSlice F a w).concat (F.getMsbD (a + w)) := by
  refine BitVec.eq_of_getLsbD_eq fun j hj => ?_
  rw [getLsbD_frameSlice F h hj, BitVec.getLsbD_concat]
  cases j with
  | zero => rfl
  | succ j =>
    rw [if_neg j.succ_ne_zero, Nat.add_sub_cancel, getLsbD_frameSlice F (Nat.le_of_succ_le h) (Nat.lt_of_succ_lt_succ hj)]
    congr 1
    omega

/-- The positional value of a slice (R101). -/
theorem frameSlice_toNat (F : Frame) {a w : Nat} (h : a + w ≤ 96) :
    (frameSlice F a w).toNat = ∑ k ∈ Finset.range w, (F.getMsbD (a + k)).toNat * 2 ^ (w - 1 - k) := by
  induction w with
  | zero => exact BitVec.toNat_of_zero_length rfl _
  | succ w ih =>
    have hshift (k : Nat) (hk : k ∈ Finset.range w) :
        (F.getMsbD (a + k)).toNat * 2 ^ (w + 1 - 1 - k) = (F.getMsbD (a + k)).toNat * 2 ^ (w - 1 - k) * 2 := by
      have hlt := Finset.mem_range.mp hk
      rw [show w + 1 - 1 - k = w - 1 - k + 1 by omega, Nat.pow_succ, Nat.mul_assoc]
    rw [frameSlice_succ F h, BitVec.toNat_concat, ih (Nat.le_of_succ_le h), Finset.sum_range_succ,
      Finset.sum_congr rfl hshift, Finset.sum_mul, Nat.add_sub_cancel, Nat.sub_self, Nat.pow_zero, Nat.mul_one]

/-- Neighbouring slices make one slice. -/
theorem frameSlice_append (F : Frame) {a v b w : Nat} (hb : b = a + v) (h : b + w ≤ 96) :
    frameSlice F a v ++ frameSlice F b w = frameSlice F a (v + w) := by
  subst hb
  rw [frameSlice, frameSlice, BitVec.extractLsb'_append_extractLsb'_eq_extractLsb' (by omega), frameSlice, Nat.add_assoc]

/-- Frames alike in their bits 17 to 74 are alike in frame bits 21 to 78 (R17). -/
theorem getMsbD_eq_of_extractLsb'_eq {F G : Frame} (h : F.extractLsb' 17 58 = G.extractLsb' 17 58) {i : Nat}
    (hlo : 21 ≤ i) (hhi : i < 79) : F.getMsbD i = G.getMsbD i := by
  have hbit (X : Frame) : (frameSlice X 21 58).getLsbD (78 - i) = X.getMsbD i := by
    rw [getLsbD_frameSlice X (by omega) (by omega), show 21 + 58 - 1 - (78 - i) = i by omega]
  rw [← hbit F, ← hbit G]
  exact congrArg (BitVec.getLsbD · (78 - i)) h

/-- Flipping frame bit 23 leaves the others. -/
theorem getMsbD_xor_twoPow_of_ne (F : Frame) {i : Nat} (h : i ≠ 23) :
    (F ^^^ BitVec.twoPow 96 72).getMsbD i = F.getMsbD i := by
  rw [BitVec.getMsbD_xor, BitVec.getMsbD_twoPow, decide_eq_false (show i ≠ 96 - 72 - 1 from h), Bool.and_false,
    Bool.xor_false]

/-! ### `Extract` -/

/-- The fields depend on frame bits 21 and 22 and those from DC_BASE + 3 to 78 (R102 to R108). -/
theorem extractFields_congr {dc : DcBase} {F G : Frame}
    (h : ∀ i, 21 ≤ i → i < 79 → i < 23 ∨ dc.index + 3 ≤ i → F.getMsbD i = G.getMsbD i) :
    extractFields dc F = extractFields dc G := by
  have hslice {a w : Nat} (hlo : 21 ≤ a) (hhi : a + w ≤ 79) (hread : a + w ≤ 23 ∨ dc.index + 3 ≤ a) :
      frameSlice F a w = frameSlice G a w :=
    frameSlice_congr (by omega) fun i _ _ => h i (by omega) (by omega) (by omega)
  have hbase : 20 ≤ dc.index ∧ dc.index ≤ 21 := by
    cases dc <;> decide
  have hidHigh : frameSlice F 21 2 = frameSlice G 21 2 := hslice (by omega) (by omega) (by omega)
  have hidLow : frameSlice F 55 24 = frameSlice G 55 24 := hslice (by omega) (by omega) (by omega)
  have hfield {k w : Nat} (hk : 3 ≤ k) (hw : k + w ≤ 35) :
      frameSlice F (dc.index + k) w = frameSlice G (dc.index + k) w :=
    hslice (by omega) (by omega) (by omega)
  rw [extractFields, extractFields, hidHigh, hidLow, hfield (k := 5) (by decide) (by decide),
    hfield (k := 3) (by decide) (by decide), hfield (k := 9) (by decide) (by decide),
    hfield (k := 11) (by decide) (by decide)]

theorem extractFields_zero (dc : DcBase) : extractFields dc 0 = State.reset.record := by
  cases dc <;> decide

theorem extractFields_allOnes (dc : DcBase) :
    extractFields dc (BitVec.allOnes 96) =
      ⟨BitVec.allOnes 26, BitVec.allOnes 4, BitVec.allOnes 2, BitVec.allOnes 2, BitVec.allOnes 24⟩ := by
  cases dc <;> decide

/-! ### The REC registers and EXTRACT (R110) -/

/-- The REC registers show the record, zero-extended (R28 to R30). -/
theorem State.holdsRecord (s : State) : HoldsRecord s.record s where
  id := (BitVec.setWidth_eq_append (by omega)).symm
  info := by
    show 0#24 ++ s.record.encTamper ++ s.record.physTamper ++ s.record.meterType = _
    rw [BitVec.setWidth_append, dif_neg (by decide), BitVec.setWidth_append, dif_neg (by decide),
      BitVec.setWidth_eq_append (by decide)]
    rfl
  cons := (BitVec.setWidth_eq_append (by omega)).symm

/-- The REC registers show the record and nothing else of the state. -/
theorem State.readReg_recordRegs_congr {s t : State} (h : t.record = s.record) : SameRegs recordRegs s t := by
  intro r hr
  simp only [recordRegs, List.mem_cons, List.not_mem_nil, or_false] at hr
  rcases hr with rfl | rfl | rfl <;> simp only [State.readReg, h]

/-- A completion after a write of the record changes the REC registers and STATUS only. -/
theorem State.completed_writeRecord (s : State) (x : Record) (c : ResultCode) :
    Completed c recordRegs s ((s.writeRecord x).complete c) :=
  { (s.writeRecord x).complete_completed c with
    regs := fun _ hr hw => (State.readReg_complete _ c hr).trans (s.readReg_writeRecord x hw) }

/-- EXTRACT: the record takes the fields of FRAME, and all else stays (R110). -/
theorem execExtract_next {s t : State} (h : exec .extract s = .next t) :
    t.record = extractFields s.cfg.dcBase s.hostFrame ∧ Completed .ok recordRegs s t := by
  rw [State.hostFrame_eq]
  cases h
  exact ⟨rfl, s.completed_writeRecord _ _⟩

end Sys2Proof.Machine
end

section
/-! PROOFS. The statements about the field extractor (spec/41_field_extractor.md). -/

namespace Sys2Proof.Proofs

open Sys2Proof Sys2Proof.Machine

/-- Settles O15: each further frame bit doubles the value of the slice and adds to it. -/
theorem sliceIsMsbFirst : Obligations.SliceIsMsbFirst := by
  intro F a w h
  exact ⟨by rw [frameSlice, Nat.sub_sub], frameSlice_toNat F h⟩

/-- Settles O16: neighbouring slices make one slice, and no slice of the layout for DC_BASE = 21 holds frame bit 23. -/
theorem fieldsTileTheFrame : Obligations.FieldsTileTheFrame := by
  intro F
  refine ⟨?_, ?_, rfl, ?_, ?_, ?_⟩
  · simp (disch := decide) only [extractFields, DcBase.index, BitVec.extractLsb'_append_eq_left,
      BitVec.extractLsb'_append_eq_right, frameSlice_append]
    rfl
  · simp (disch := decide) only [extractFields, DcBase.index, frameSlice_append]
    rfl
  · exact getLsbD_frameSlice F (by decide) (by decide)
  · change (frameSlice F 21 2 ++ frameSlice F 55 24).getLsbD 23 = F.getMsbD 55
    rw [BitVec.getLsbD_append]
    exact getLsbD_frameSlice F (by decide) (by decide)
  · exact extractFields_congr fun i _ _ (hread : i < 23 ∨ 24 ≤ i) => getMsbD_xor_twoPow_of_ne F (by omega)

/-- Settles O17: EXTRACT stores the fields of FRAME. -/
theorem extractCommand : Obligations.ExtractCommand := by
  constructor
  · intro s
    obtain ⟨t, ht⟩ : ∃ t, exec .extract s = .next t := ⟨_, rfl⟩
    obtain ⟨hrecord, hcompleted⟩ := execExtract_next ht
    have hholds := t.holdsRecord
    rw [hrecord] at hholds
    obtain ⟨hid, hinfo, hcons⟩ := hholds
    refine ⟨t, ht, hcompleted, hid, fun hdc => ?_, fun hdc => ?_, fun hzero => ?_, fun hones => ?_⟩
    · rw [hdc] at hinfo hcons
      exact ⟨hinfo, hcons⟩
    · rw [hdc] at hinfo hcons
      exact ⟨hinfo, hcons⟩
    · have hreset : ∀ r ∈ recordRegs, State.reset.readReg r = 0 := by decide
      rw [hzero, extractFields_zero] at hrecord
      exact fun r hr => (State.readReg_recordRegs_congr hrecord r hr).trans (hreset r hr)
    · rw [hones, extractFields_allOnes] at hid hinfo hcons
      exact ⟨hid.trans (by decide), hinfo.trans (by decide), hcons.trans (by decide)⟩
  · intro s u hcfg hframe
    obtain ⟨t, ht⟩ : ∃ t, exec .extract s = .next t := ⟨_, rfl⟩
    obtain ⟨v, hv⟩ : ∃ v, exec .extract u = .next v := ⟨_, rfl⟩
    refine ⟨t, v, ht, hv, State.readReg_recordRegs_congr ?_⟩
    rw [(execExtract_next ht).1, (execExtract_next hv).1, hcfg]
    exact extractFields_congr fun i hlo hhi _ => (getMsbD_eq_of_extractLsb'_eq hframe hlo hhi).symm

end Sys2Proof.Proofs
end

section
/-! SUPPORT. Component values, energies and their sums: ranges, the half-symbol form of the three-tap filter, and the decisions
that EVAL leaves in DEC (spec/42_demodulator.md R120 to R129). -/

namespace Sys2Proof.Machine

/-! ### Components and energies (R120, R121) -/

/-- Two's complement: bit 7 of a byte weighs −256 against its unsigned value. -/
theorem component_s8 (x : Byte) : component .s8 x = (x.toNat : Int) - 256 * (x.getLsbD 7).toNat - 127 := by
  have hsign : x.toInt = (x.toNat : Int) - 256 * (x.getLsbD 7).toNat := by
    rw [BitVec.toInt_eq_msb_cond, BitVec.msb_eq_getLsbD_last]
    cases x.getLsbD (8 - 1) <;> simp
  rw [component, hsign, sampleBias]

theorem component_s8_range (x : Byte) : -255 ≤ component .s8 x ∧ component .s8 x ≤ 0 := by
  have hlow : -128 ≤ x.toInt := x.le_toInt
  have hhigh : x.toInt < 128 := x.toInt_lt
  rw [component, sampleBias]
  omega

theorem component_u8_range (x : Byte) : -127 ≤ component .u8 x ∧ component .u8 x ≤ 128 := by
  have hhigh : x.toNat < 256 := x.isLt
  rw [component, sampleBias]
  omega

theorem sampleEnergy_nonneg (f : ByteFormat) (iq : Byte × Byte) : 0 ≤ sampleEnergy f iq :=
  add_nonneg (sq_nonneg _) (sq_nonneg _)

/-- Components within ±`b` give an energy of at most `2·b²`. -/
theorem sampleEnergy_le_of_component {f : ByteFormat} {b : Int} (h : ∀ x, -b ≤ component f x ∧ component f x ≤ b)
    (iq : Byte × Byte) : sampleEnergy f iq ≤ 2 * b ^ 2 := by
  have hsq (x : Byte) : component f x ^ 2 ≤ b ^ 2 := sq_le_sq' (h x).1 (h x).2
  rw [two_mul]
  exact add_le_add (hsq iq.1) (hsq iq.2)

theorem sampleEnergy_s8_le (iq : Byte × Byte) : sampleEnergy .s8 iq ≤ 130050 :=
  sampleEnergy_le_of_component (b := 255)
    (fun x => ⟨(component_s8_range x).1, (component_s8_range x).2.trans (by decide)⟩) iq

theorem sampleEnergy_u8_le (iq : Byte × Byte) : sampleEnergy .u8 iq ≤ 32768 :=
  sampleEnergy_le_of_component (b := 128)
    (fun x => ⟨le_trans (by decide) (component_u8_range x).1, (component_u8_range x).2⟩) iq

theorem State.energyAt_range (s : State) (j : Nat) : 0 ≤ s.energyAt j ∧ s.energyAt j ≤ 130050 := by
  rw [State.energyAt]
  refine ⟨sampleEnergy_nonneg _ _, ?_⟩
  cases s.cfg.byteFormat with
  | s8 => exact sampleEnergy_s8_le _
  | u8 => exact (sampleEnergy_u8_le _).trans (by decide)

/-! ### Running sums and the half-symbol form (R123 to R125) -/

/-- `C[m + k] − C[m]` is the sum of the `k` elements after element `m`. -/
theorem prefixSum_add (e : Nat → Int) (m k : Nat) :
    prefixSum e (m + k) = prefixSum e m + ∑ j ∈ Finset.range k, e (m + 1 + j) := by
  rw [prefixSum, Nat.add_right_comm, Finset.sum_range_add, prefixSum]

/-- The three-tap filter is the early half of its symbol minus the late half. -/
theorem softOf_eq_early_sub_late (e : Nat → Int) (n : Nat) :
    softOf e n =
      ∑ j ∈ Finset.range 73, e (146 * n + 2 + j) - ∑ j ∈ Finset.range 73, e (146 * n + 75 + j) := by
  have hearly := prefixSum_add e (146 * n + 1) 73
  have hlate := prefixSum_add e (146 * n + 74) 73
  simp only [Nat.add_assoc, Nat.reduceAdd] at hearly hlate
  simp only [softOf, Nat.add_assoc]
  linarith

theorem sum_take_eq_sum_range (es : List Int) {k : Nat} (h : k ≤ es.length) :
    (es.take k).sum = ∑ j ∈ Finset.range k, es.getD j 0 := by
  induction k with
  | zero => rfl
  | succ k ih =>
    rw [List.sum_take_succ es k h, ih (Nat.le_of_succ_le h), Finset.sum_range_succ, List.getD_eq_getElem es 0 h]

/-- The running sums the machine computes are the inclusive sums of R123. -/
theorem runningSums_eq_prefixSum (es : List Int) {m : Nat} (h : m < es.length) :
    (runningSums 0 es).getD m 0 = prefixSum (es.getD · 0) m := by
  rw [runningSums_getD es 0 m h, zero_add, sum_take_eq_sum_range es h, prefixSum]

/-- The soft value the machine computes is the three-tap filter of R124. -/
theorem softValue_eq_softOf (es : List Int) {n : Nat} (hlen : es.length = 14018) (hn : n < 96) :
    softValue (runningSums 0 es) n = softOf (es.getD · 0) n := by
  have hsum {k m : Nat} (hkm : k = m) (hm : m < 14018) :
      (runningSums 0 es).getD k 0 = prefixSum (es.getD · 0) m := by
    rw [hkm, runningSums_eq_prefixSum es (hlen ▸ hm)]
  have hperiod : symbolPeriod = 146 := rfl
  have hhalf : halfSymbol = 73 := rfl
  rw [softValue, softOf, hperiod, hhalf, hsum (m := 146 * n + 74) (by omega) (by omega),
    hsum (m := 146 * n + 1) (by omega) (by omega), hsum (m := 146 * n + 147) (by omega) (by omega)]

/-! ### Widths (R126) -/

/-- A sum of `k` elements, each between 0 and `b`, is between 0 and `k·b`. -/
theorem sum_range_bounds {e : Nat → Int} {b : Int} (h : ∀ j, 0 ≤ e j ∧ e j ≤ b) (k : Nat) :
    0 ≤ ∑ j ∈ Finset.range k, e j ∧ ∑ j ∈ Finset.range k, e j ≤ k * b := by
  refine ⟨Finset.sum_nonneg fun j _ => (h j).1, ?_⟩
  simpa using Finset.sum_le_card_nsmul (Finset.range k) e b fun j _ => (h j).2

/-- The half-symbol sum of R125 that starts at window sample `a`. -/
theorem State.halfSum_range (s : State) (a : Nat) :
    0 ≤ ∑ j ∈ Finset.range 73, s.energyAt (a + j) ∧ ∑ j ∈ Finset.range 73, s.energyAt (a + j) ≤ 9493650 :=
  sum_range_bounds (fun j => s.energyAt_range (a + j)) 73

theorem State.softOf_range (s : State) (n : Nat) :
    -9493650 ≤ softOf s.energyAt n ∧ softOf s.energyAt n ≤ 9493650 := by
  obtain ⟨hearly0, hearly⟩ := s.halfSum_range (146 * n + 2)
  obtain ⟨hlate0, hlate⟩ := s.halfSum_range (146 * n + 75)
  rw [softOf_eq_early_sub_late]
  constructor <;> linarith

theorem State.prefixSum_range (s : State) {m : Nat} (h : m < 14018) :
    0 ≤ prefixSum s.energyAt m ∧ prefixSum s.energyAt m ≤ 1823040900 := by
  obtain ⟨hnonneg, hle⟩ := sum_range_bounds s.energyAt_range (m + 1)
  have hm : ((m + 1 : Nat) : Int) ≤ 14018 := by exact_mod_cast h
  rw [prefixSum]
  exact ⟨hnonneg, by linarith⟩

/-! ### The decisions of EVAL (R128, R129) -/

/-- Decision `n` is frame bit `n`. -/
theorem getMsbD_packDecisions (b : Nat → Bool) {k n : Nat} (h : n < k) : (packDecisions b k).getMsbD n = b n := by
  induction k with
  | zero => exact absurd h (Nat.not_lt_zero n)
  | succ k ih =>
    rw [packDecisions, BitVec.getMsbD_concat]
    by_cases hn : n < k
    · rw [if_pos hn, ih hn]
    · obtain rfl : n = k := by omega
      simp

/-- Frame bit `n` of the window at ALIGN is the sign of the three-tap filter. -/
theorem State.getMsbD_decisions (s : State) {n : Nat} (h : n < 96) :
    (s.decisions s.align.toNat).getMsbD n = decide (0 < softOf s.energyAt n) := by
  rw [s.decisions_of_sums s.align.toNat (e := s.energyAt) (g := prefixSum s.energyAt) (fun _ _ => rfl)
    (Finset.sum_range_one _) (fun _ _ => Finset.sum_range_succ _ _), getMsbD_packDecisions _ h, softOf]

/-- EVAL on a window that fits: the decisions go to DEC and through the frame check (R135). -/
theorem execEval_of_fits {s : State} (h : s.align.toNat + 14018 ≤ s.nsamp.toNat) :
    exec .eval s =
      .next ((s.writeDec (s.decisions s.align.toNat)).finishCheck (s.decisions s.align.toNat)) :=
  if_pos (decide_eq_true h)

@[simp] theorem State.finishCheck_dec (s : State) (F : Frame) : (s.finishCheck F).dec = s.dec := by
  obtain ⟨-, -, -, -, -, -, hdec⟩ := s.finishCheck_frame F
  exact hdec

end Sys2Proof.Machine
end

section
/-! PROOFS. The statements about energies, soft values and decisions (spec/42_demodulator.md R120 to R129). -/

namespace Sys2Proof.Proofs

open Sys2Proof Sys2Proof.Machine

/-- Settles O18: the ranges of the components bound their squares. -/
theorem componentsAndEnergies : Obligations.ComponentsAndEnergies := by
  intro x y
  obtain ⟨hs8low, hs8high⟩ := component_s8_range x
  obtain ⟨hu8low, hu8high⟩ := component_u8_range x
  exact ⟨component_s8 x, rfl, hs8low, hs8high, hu8low, hu8high,
    fun f => by rw [sampleEnergy, sq, sq],
    sampleEnergy_nonneg _ _, sampleEnergy_s8_le _, sampleEnergy_nonneg _ _, sampleEnergy_u8_le _⟩

/-- Settles O19: EVAL packs the signs of the filter, and the frame check leaves DEC alone. -/
theorem evalDecidesByTheFilter : Obligations.EvalDecidesByTheFilter := by
  intro s hfits
  refine ⟨_, execEval_of_fits hfits, fun n hn => ?_⟩
  rw [State.hostDec_eq, State.finishCheck_dec, State.writeDec_dec, s.getMsbD_decisions hn]

/-- Settles O20: a difference of two inclusive sums is the sum of the elements between. -/
theorem softValueIsEarlyMinusLate : Obligations.SoftValueIsEarlyMinusLate := by
  intro es n hlen hn
  rw [softValue_eq_softOf es hlen hn, softOf_eq_early_sub_late]

/-- Settles O21: each width follows from the bound of one energy and the number of energies summed. -/
theorem energiesAndSumsFitTheirWidths : Obligations.EnergiesAndSumsFitTheirWidths := by
  intro s
  refine ⟨fun j => ?_, fun n => ?_, fun n => ?_, fun m hm => ?_⟩
  · obtain ⟨hnonneg, hle⟩ := s.energyAt_range j
    exact ⟨hnonneg, hle, hle.trans_lt (by decide)⟩
  · obtain ⟨hnonneg, hle⟩ := s.halfSum_range n
    exact ⟨hnonneg, hle, hle.trans_lt (by decide)⟩
  · obtain ⟨hlow, hhigh⟩ := s.softOf_range n
    exact ⟨hlow, hhigh, le_trans (by decide) hlow, hhigh.trans_lt (by decide)⟩
  · obtain ⟨hnonneg, hle⟩ := s.prefixSum_range hm
    exact ⟨hnonneg, hle, hle.trans_lt (by decide)⟩

end Sys2Proof.Proofs
end

section
/-! SUPPORT. Which words are legal, what a latched word completes to, and a host write to CMD (spec/30_encoding.md R60 to R63,
spec/43_control.md R150 to R156). -/

namespace Sys2Proof

/-- R61: the words up to 5 are the six commands. -/
theorem exists_encode_eq {w : Word} (h : w.toNat ≤ 5) : ∃ i, encode i = w := by
  have hword : ∀ n ≤ 5, ∃ i ∈ [Instr.nop, .eval, .check, .div, .extract, .clearCount], (encode i).toNat = n := by decide
  obtain ⟨i, -, hi⟩ := hword w.toNat h
  exact ⟨i, BitVec.eq_of_toNat_eq hi⟩

/-- R61, R62: the legal words are the words up to 5. -/
theorem decodeWord_error_iff (w : Word) : (∃ e, decodeWord w = .error e) ↔ 5 < w.toNat := by
  refine ⟨fun ⟨e, he⟩ => ?_, decodeWord_illegal⟩
  by_contra hle
  obtain ⟨i, rfl⟩ := exists_encode_eq (Nat.le_of_not_lt hle)
  cases (decodeWord_encode i).symm.trans he

/-- R63: a command has one word only. -/
theorem encode_of_decodeWord {w : Word} {i : Instr} (h : decodeWord w = .ok i) : w = encode i := by
  have hle : w.toNat ≤ 5 := by
    by_contra hlt
    obtain ⟨e, he⟩ := decodeWord_illegal (Nat.lt_of_not_le hlt)
    cases h.symm.trans he
  obtain ⟨j, rfl⟩ := exists_encode_eq hle
  cases (decodeWord_encode j).symm.trans h
  rfl

/-- R62: a word is above 5 by a reserved OPC or by a set bit of MBZ. -/
theorem reserved_or_mbz_iff (w : Word) : 6 ≤ (opcField w).toNat ∨ mbzField w ≠ 0 ↔ 5 < w.toNat := by
  have hmbz : mbzField w ≠ 0 ↔ w.toNat / 16 ≠ 0 := by
    rw [← mbzField_toNat]
    exact (BitVec.toNat_inj (y := 0#28)).not.symm
  rw [hmbz, opcField_toNat]
  omega

/-- R154: NOP is the only command with OPC = 0. -/
theorem eq_nop_of_opcField_eq_zero {w : Word} {i : Instr} (hopc : opcField w = 0) (h : decodeWord w = .ok i) :
    i = .nop := by
  obtain rfl := encode_of_decodeWord h
  obtain ⟨hi, -⟩ := wordLayout i
  have hdec : decodeOpc 0 = .ok i := by rw [← hopc, hi, decodeOpc_opc]
  cases hdec
  rfl

end Sys2Proof

namespace Sys2Proof.Machine

/-! ### The completion of the latched word (R151, R156) -/

theorem runLatched_of_ok {w : Word} {i : Instr} (h : decodeWord w = .ok i) (s : State) : runLatched w s = exec i s := by
  rw [runLatched, h]

theorem runLatched_of_error {w : Word} {e : DecodeError} (h : decodeWord w = .error e) (s : State) :
    runLatched w s = .next (s.complete .illegalCmd) := by
  rw [runLatched, h]
  rfl

/-- A completion after a write of RECORD_COUNT changes that register and STATUS only. -/
theorem State.completed_writeCount (s : State) (n : Word) (c : ResultCode) :
    Completed c [.recordCount] s ((s.writeCount n).complete c) :=
  { (s.writeCount n).complete_completed c with
    regs := fun _ hr hw => (State.readReg_complete _ c hr).trans (s.readReg_writeCount n (List.ne_of_not_mem_cons hw)) }

/-! ### A host write to CMD (R47, R150) -/

/-- Issue latches the word without decoding it. -/
theorem State.afterWrite_cmd_idle {s : State} (hb : s.busy = false) (w : Word) :
    s.afterWrite (Reg.offset .cmd) .word w = s.issue w :=
  s.afterWrite_reg_unlocked (.inr hb) w

theorem State.afterWrite_cmd_busy {s : State} (hb : s.busy = true) (w : Word) :
    s.afterWrite (Reg.offset .cmd) .word w = s.setBusyWrErr := by
  rw [State.afterWrite_reg, hb]
  rfl

@[simp] theorem State.byteAt_issue (s : State) (w : Word) (a : Nat) : (s.issue w).byteAt a = s.byteAt a := rfl

end Sys2Proof.Machine
end

section
/-! PROOFS. The statements about issue, NOP, CLEAR_COUNT and illegal words (spec/43_control.md). -/

namespace Sys2Proof.Proofs

open Sys2Proof Sys2Proof.Machine

/-- Settles O5: NOP is a completion and nothing more, and CMD is a locked register. -/
theorem nopChangesOnlyStatus : Obligations.NopChangesOnlyStatus := by
  refine ⟨fun s => ⟨_, rfl, s.complete_completed .ok⟩, fun w i hopc h => ?_, fun s hb => State.afterWrite_cmd_busy hb 0, ?_⟩
  · obtain rfl := eq_nop_of_opcField_eq_zero hopc h
    exact ⟨rfl, encode_of_decodeWord h⟩
  · rw [State.afterWrite_cmd_idle rfl]
    exact ⟨_, runLatched_of_ok (decodeWord_encode .nop) _, by decide⟩

/-- Settles O6: the frame is that of a write to RECORD_COUNT, which changes nothing when the count was 0. -/
theorem clearCountZeroesTheCount : Obligations.ClearCountZeroesTheCount := by
  intro s
  have hcompleted := s.completed_writeCount 0 .ok
  refine ⟨_, rfl, hcompleted, rfl, fun hzero r hr => ?_⟩
  by_cases hcount : r = .recordCount
  · subst hcount
    exact hzero.symm
  · exact hcompleted.regs r hr (List.mem_singleton.not.mpr hcount)

/-- Settles O7: the illegal words are those above 5, and each completes with ILLEGAL_CMD alone. -/
theorem illegalWordCompletesWithIllegalCmd : Obligations.IllegalWordCompletesWithIllegalCmd := by
  refine ⟨fun w => (reserved_or_mbz_iff w).trans (decodeWord_error_iff w).symm, fun s w ⟨e, he⟩ => ?_, ?_⟩
  · exact ⟨_, runLatched_of_error he s, s.complete_completed .illegalCmd⟩
  · obtain ⟨e, he⟩ := decodeWord_illegal (w := 7) (by decide)
    rw [State.afterWrite_cmd_idle rfl]
    exact ⟨_, runLatched_of_error he _, by decide⟩

/-- Settles O8: a write to CMD is the issue of its word, or is lost to the lock. -/
theorem issueLatchesTheWord : Obligations.IssueLatchesTheWord := by
  intro s w
  refine ⟨fun hb => ?_, fun hb => State.afterWrite_cmd_busy hb w⟩
  exact ⟨_, State.afterWrite_cmd_idle hb w, ⟨_, s.issue_engine w⟩, State.is_busy (s.issue_engine w), s.issue_done w,
    s.issue_result w, s.issue_busyWrErr w, s.issue_accErr w, fun _ => s.readReg_issue w, s.issue_mem w, s.byteAt_issue w⟩

end Sys2Proof.Proofs
end

section
/-! SUPPORT. The interrupt output (spec/60_exceptions.md R187): it is CTRL.IE and STATUS.DONE, a completion leaves CTRL.IE
alone, and what each update of the state does to it. -/

namespace Sys2Proof.Machine

/-! ### The two bits it is made of (R22, R23) -/

theorem State.getLsbD_readReg_ctrl_ie (s : State) : (s.readReg .ctrl).getLsbD 0 = s.ie := by
  rw [State.readReg, BitVec.getLsbD_append]
  exact BitVec.getLsbD_ofBool s.ie 0

theorem State.getLsbD_readReg_status_done (s : State) : (s.readReg .status).getLsbD 1 = s.done := by
  rw [State.readReg, State.statusWord, BitVec.getLsbD_append, BitVec.getLsbD_append]
  exact BitVec.getLsbD_ofBool s.done 0

theorem State.irq_eq_true_iff (s : State) : s.irq = true ↔ s.ie = true ∧ s.done = true := Bool.and_eq_true_iff

theorem State.irq_of_done {s : State} (h : s.done = true) : s.irq = s.ie := by rw [State.irq, h, Bool.and_true]

theorem State.irq_of_not_done {s : State} (h : s.done = false) : s.irq = false := by rw [State.irq, h, Bool.and_false]

/-! ### A completion leaves CTRL.IE alone (R151) -/

@[simp] theorem State.applyOutcome_ie (s : State) (F : Frame) (c : ResultCode) : (s.applyOutcome F c).ie = s.ie := by
  cases c <;> rfl

@[simp] theorem State.finishCheck_ie (s : State) (F : Frame) : (s.finishCheck F).ie = s.ie := by
  rw [State.finishCheck, State.complete_ie, State.applyOutcome_ie]

theorem exec_ie {i : Instr} {s t : State} (h : exec i s = .next t) : t.ie = s.ie := by
  cases i with
  | nop => cases h; rfl
  | eval =>
    simp only [exec, execEval] at h
    split at h <;> cases h
    · rw [State.finishCheck_ie, State.writeDec_ie]
    · rfl
  | check => cases h; exact s.finishCheck_ie s.frame
  | div => cases h; rfl
  | extract => cases h; rfl
  | clearCount => cases h; rfl

theorem runLatched_ie {w : Word} {s t : State} (h : runLatched w s = .next t) : t.ie = s.ie := by
  cases hw : decodeWord w with
  | ok i =>
    rw [runLatched_of_ok hw] at h
    exact exec_ie h
  | error e =>
    rw [runLatched_of_error hw] at h
    cases h
    rfl

/-- The completion of any word leaves DONE = 1 and IE as it was, so the output is IE. -/
theorem runLatched_irq (w : Word) (s : State) : ∃ t, runLatched w s = .next t ∧ t.irq = s.ie := by
  obtain ⟨t, hrun, -, hdone, -⟩ := runLatched_next w s
  exact ⟨t, hrun, (State.irq_of_done hdone).trans (runLatched_ie hrun)⟩

/-! ### What the other updates do to it -/

section Irq

variable (s : State)

theorem State.irq_writeReg_ctrl (v : Word) : (s.writeReg v .ctrl).irq = (v.getLsbD 0 && s.done) := rfl

theorem State.irq_clearStatus_of_done_bit {v : Word} (h : v.getLsbD 1 = true) : (s.clearStatus v).irq = false :=
  State.irq_of_not_done (by rw [State.clearStatus_done, h, Bool.not_true, Bool.and_false])

@[simp] theorem State.irq_issue (w : Word) : (s.issue w).irq = false := State.irq_of_not_done (s.issue_done w)

@[simp] theorem State.irq_applyReset : s.applyReset.irq = false := State.irq_of_not_done s.applyReset_done

@[simp] theorem State.irq_setAccErr : s.setAccErr.irq = s.irq := rfl

@[simp] theorem State.irq_setBusyWrErr : s.setBusyWrErr.irq = s.irq := rfl

end Irq

end Sys2Proof.Machine
end

section
/-! PROOFS. The statement about the interrupt output (spec/60_exceptions.md). -/

namespace Sys2Proof.Proofs

open Sys2Proof Sys2Proof.Machine

/-- Settles O36: the output is read off the two bits; CTRL and STATUS are never locked, and CMD is open while BUSY = 0. -/
theorem irqFollowsDoneAndEnable : Obligations.IrqFollowsDoneAndEnable := by
  intro s
  refine ⟨?_, fun w => runLatched_irq w s, fun hdone => ?_, ?_, ?_, fun w hb => ?_, s.irq_applyReset, s.irq_setAccErr,
    s.irq_setBusyWrErr⟩
  · rw [s.getLsbD_readReg_ctrl_ie, s.getLsbD_readReg_status_done]
    exact s.irq_eq_true_iff
  · rw [s.afterWrite_reg_unlocked (.inl rfl), s.irq_writeReg_ctrl, hdone]
    rfl
  · rw [s.afterWrite_reg_unlocked (.inl rfl), s.irq_writeReg_ctrl]
    rfl
  · rw [s.afterWrite_reg_unlocked (.inl rfl)]
    exact s.irq_clearStatus_of_done_bit rfl
  · rw [State.afterWrite_cmd_idle hb]
    exact s.irq_issue w

end Sys2Proof.Proofs
end

section
/-! SUPPORT. What reset leaves the registers reading, and what a host step keeps while a command runs
(spec/70_reset_and_hazards.md R200, R204). -/

namespace Sys2Proof.Machine

/-! ### Register values after reset (R200) -/

/-- DIVS holds BCH_POLY; every other register reads 0. -/
theorem State.readReg_reset (r : Reg) : State.reset.readReg r = if r = .divs then 0x00016F63 else 0 := by
  cases r <;> rfl

/-- The configuration and the environment, which reset keeps, are read by no register. -/
@[simp] theorem State.readReg_applyReset (s : State) (r : Reg) : s.applyReset.readReg r = State.reset.readReg r := by
  cases r <;> rfl

/-! ### The host's steps while a command runs (R47, R48, R204) -/

/-- The outside world is read by no register. -/
theorem State.readReg_withEnv (s : State) (e : Environment) (r : Reg) :
    State.readReg { s with env := e } r = s.readReg r := by
  cases r <;> rfl

theorem State.byteAt_congr {s t : State} (hmem : t.mem = s.mem) (hresets : t.env.resets = s.env.resets) (a : Nat) :
    t.byteAt a = s.byteAt a := by
  rw [State.byteAt, hmem, hresets, State.byteAt]

/-- Every register but CTRL and STATUS is locked while BUSY = 1 or never writable (R21, R47). -/
theorem Reg.readOnly_of_not_locked {r : Reg} (hl : r.locked = false) (hctrl : r ≠ .ctrl) (hstatus : r ≠ .status) :
    r.readOnly = true := by
  cases r with
  | ctrl => exact absurd rfl hctrl
  | status => exact absurd rfl hstatus
  | cmd | align | nsamp | divs => cases hl
  | frameHi | frameMid | frameLo | divdW0 | divdW1 | divdW2 | divdW3 => cases hl
  | _ => rfl

/-- A write to a register that is not locked changes no register but CTRL and STATUS. -/
theorem State.readReg_writeReg_of_not_locked (s : State) (v : Word) {r q : Reg} (hl : r.locked = false)
    (hctrl : q ≠ .ctrl) (hstatus : q ≠ .status) : (s.writeReg v r).readReg q = s.readReg q := by
  by_cases hq : q = r
  · subst hq
    rw [s.writeReg_readOnly v (Reg.readOnly_of_not_locked hl hctrl hstatus)]
  · have hcmd : r ≠ .cmd := by
      rintro rfl
      cases hl
    exact s.readReg_writeReg_ne v hcmd hq

/-- While a command runs, a bus access changes no register but CTRL and STATUS. -/
theorem State.readReg_afterAccess_busy {s : State} (hb : s.busy = true) (a : BusAccess) {q : Reg} (hctrl : q ≠ .ctrl)
    (hstatus : q ≠ .status) : (s.afterAccess a).readReg q = s.readReg q := by
  have h := s.afterAccess_cases a
  generalize s.afterAccess a = t at h ⊢
  cases h with
  | nothing => rfl
  | accErr => exact s.readReg_setAccErr hstatus
  | locked => exact s.readReg_setBusyWrErr hstatus
  | register r v _ hl =>
    rw [hb, Bool.and_true] at hl
    exact s.readReg_writeReg_of_not_locked v hl hctrl hstatus
  | sample o v => exact s.readReg_storeWord o v q

/-- What R204 says `t` keeps of `s`: RESULT, every register but CTRL and STATUS, the samples and the running command. -/
structure KeepsRunning (s t : State) : Prop where
  result : t.result = s.result
  regs : ∀ r, r ≠ .ctrl → r ≠ .status → t.readReg r = s.readReg r
  mem : t.mem = s.mem
  bytes : ∀ a, t.byteAt a = s.byteAt a
  engine : t.engine = s.engine

/-- The outside world moves on without the block, as long as it counts no reset. -/
theorem KeepsRunning.withEnv {s t : State} (h : KeepsRunning s t) {e : Environment} (he : e.resets = s.env.resets) :
    KeepsRunning s { t with env := e } where
  result := h.result
  regs r hctrl hstatus := (t.readReg_withEnv e r).trans (h.regs r hctrl hstatus)
  mem := h.mem
  bytes := State.byteAt_congr h.mem he
  engine := h.engine

theorem KeepsRunning.refl (s : State) : KeepsRunning s s := ⟨rfl, fun _ _ _ => rfl, rfl, fun _ => rfl, rfl⟩

/-- The lock: no bus access reaches an operand, a sample or CMD while a command runs. -/
theorem State.afterAccess_keepsRunning {s : State} (hb : s.busy = true) (a : BusAccess) :
    KeepsRunning s (s.afterAccess a) := by
  obtain ⟨-, hresult, -, -, -, -, -, -, hresets⟩ := s.afterAccess_frame a
  obtain ⟨hengine, hmem⟩ := s.afterAccess_busy a hb
  exact ⟨hresult, fun _ => s.readReg_afterAccess_busy hb a, hmem, State.byteAt_congr hmem hresets, hengine⟩

/-- A host step of a running block that leaves a command running is no reset, so it is at most a bus access. -/
theorem State.hostTurn?_keepsRunning {s t : State} (h : s.hostTurn? = some t) (hs : s.busy = true) (ht : t.busy = true) :
    KeepsRunning s t := by
  obtain ⟨how, rest, -, rfl⟩ | ⟨a, e, rfl, he⟩ | ⟨e, rfl, he⟩ := State.hostTurn?_cases h
  · have hidle : ((s.setInputs rest).applyReset.restartDriver how).busy = false := State.not_busy rfl
    cases hidle.symm.trans ht
  · exact (State.afterAccess_keepsRunning hs a).withEnv he
  · exact (KeepsRunning.refl s).withEnv he

/-- A step that leaves a running command running counts its wait down and takes a host step. -/
theorem step_running_cases {s t : State} (h : step s = .next t) (hs : s.busy = true) (ht : t.busy = true) :
    ∃ w n, s.engine = .running w (n + 1) ∧ (s.tick w n).hostTurn? = some t := by
  obtain ⟨w, n, -, hrun⟩ | hhost | ⟨hidle, -⟩ | ⟨hidle, -⟩ := step_cases h
  · obtain ⟨u, hu, hidle, -⟩ := runLatched_next w s
    cases hu.symm.trans hrun
    cases (State.not_busy hidle).symm.trans ht
  · exact hhost
  · cases (State.not_busy hidle).symm.trans hs
  · cases (State.not_busy hidle).symm.trans hs

end Sys2Proof.Machine
end

section
/-! PROOFS. The statements about reset values and about reads before completion (spec/70_reset_and_hazards.md). -/

namespace Sys2Proof.Proofs

open Sys2Proof Sys2Proof.Machine

/-- Settles O43: what reset keeps, the configuration and the environment, no register reads. -/
theorem resetValues : Obligations.ResetValues :=
  ⟨fun s => ⟨fun r => (s.readReg_applyReset r).trans (State.readReg_reset r), s.applyReset_engine, s.irq_applyReset⟩,
    State.readReg_reset, rfl, rfl⟩

/-- Settles O37: only a host step other than reset leaves the command running, and the lock keeps that from the operands. -/
theorem runningCommandShowsOldResults : Obligations.RunningCommandShowsOldResults := by
  intro s t hs hstep ht
  obtain ⟨w, n, hengine, hhost⟩ := step_running_cases hstep hs ht
  have hkeeps := State.hostTurn?_keepsRunning hhost (s.busy_tick w n) ht
  exact ⟨hkeeps.result, fun r hctrl hstatus => (hkeeps.regs r hctrl hstatus).trans (s.readReg_tick w n hstatus),
    hkeeps.mem, hkeeps.bytes, w, n + 1, n, hengine, hkeeps.engine⟩

end Sys2Proof.Proofs
end

section
/-! PROOFS. The statements about decoding and encoding (spec/30_encoding.md section 1). -/

namespace Sys2Proof.Proofs

open Sys2Proof Sys2Proof.Machine

/-- Settles O3: a command has one word, its encoding. -/
theorem decodeAndEncodeAgree : Obligations.DecodeAndEncodeAgree := by
  rintro w i -
  refine ⟨encode_of_decodeWord, ?_⟩
  rintro rfl
  exact decodeWord_encode i

/-- Settles O2: three encodings, two words with a set MBZ bit and one with a reserved OPC. -/
theorem specWordsDecode : Obligations.SpecWordsDecode :=
  ⟨decodeWord_encode .eval, decodeWord_encode .div, decodeWord_encode .clearCount, by decide, by decide, by decide⟩

end Sys2Proof.Proofs
end

section
/-! SUPPORT. What the completion of a command writes, field by field (spec/42_demodulator.md R132 to R136, spec/43_control.md
R151 to R156). -/

namespace Sys2Proof.Machine

/-! ### The frame check (R132 to R134) -/

section FrameCheck

variable (s : State) (F : Frame)

theorem State.applyOutcome_recordCount (c : ResultCode) :
    (s.applyOutcome F c).recordCount = if c = .record then s.recordCount + 1 else s.recordCount := by
  cases c <;> rfl

theorem State.applyOutcome_record (c : ResultCode) :
    (s.applyOutcome F c).record = if c = .record then extractFields s.cfg.dcBase F else s.record := by
  cases c <;> rfl

theorem State.applyOutcome_division (c : ResultCode) :
    (s.applyOutcome F c).division = if c = .noPreamble then s.division else (frameDivision F).registers := by
  cases c <;> rfl

@[simp] theorem State.finishCheck_result : (s.finishCheck F).result = frameCheck F := rfl

@[simp] theorem State.finishCheck_recordCount :
    (s.finishCheck F).recordCount = if frameCheck F = .record then s.recordCount + 1 else s.recordCount :=
  s.applyOutcome_recordCount F _

@[simp] theorem State.finishCheck_record :
    (s.finishCheck F).record = if frameCheck F = .record then extractFields s.cfg.dcBase F else s.record :=
  s.applyOutcome_record F _

@[simp] theorem State.finishCheck_division :
    (s.finishCheck F).division = if frameCheck F = .noPreamble then s.division else (frameDivision F).registers :=
  s.applyOutcome_division F _

/-- The codes of R132. -/
theorem frameCheck_mem_results : frameCheck F ∈ Instr.results .check := by
  rw [frameCheck]
  split
  · cases frameDivision F with
    | invalidOperand => decide
    | divisorTooLarge => decide
    | ok r _ _ _ =>
      rw [DivideResult.checkCode]
      split <;> decide
  · decide

end FrameCheck

/-! ### Commands -/

/-- EVAL on a window past NSAMP (R135). -/
theorem execEval_of_not_fits {s : State} (h : s.nsamp.toNat < s.align.toNat + 14018) :
    exec .eval s = .next (s.complete .windowRange) :=
  if_neg fun hfits => Nat.not_le_of_lt h (of_decide_eq_true hfits)

/-- The only two ways EVAL goes (R135). -/
theorem execEval_cases {s t : State} (h : exec .eval s = .next t) :
    t = (s.writeDec (s.decisions s.align.toNat)).finishCheck (s.decisions s.align.toNat) ∨ t = s.complete .windowRange := by
  rcases Nat.lt_or_ge s.nsamp.toNat (s.align.toNat + 14018) with hlt | hle
  · rw [execEval_of_not_fits hlt] at h
    cases h
    exact .inr rfl
  · rw [execEval_of_fits hle] at h
    cases h
    exact .inl rfl

/-- Each command completes with a code of its own (R181). -/
theorem exec_result {i : Instr} {s t : State} (h : exec i s = .next t) : t.result ∈ Instr.results i := by
  cases i with
  | eval =>
    obtain rfl | rfl := execEval_cases h
    · exact List.mem_cons_of_mem _ (frameCheck_mem_results _)
    · exact List.mem_cons_self
  | check =>
    cases h
    exact frameCheck_mem_results _
  | div =>
    cases h
    show s.divCommand.divCode ∈ _
    cases s.divCommand <;> simp [DivideResult.divCode, Instr.results]
  | nop | extract | clearCount =>
    cases h
    exact List.mem_singleton_self _

/-- The frame check changes the division registers, the REC registers and RECORD_COUNT, and completes: nothing else. -/
theorem State.finishCheck_eq (s : State) (F : Frame) :
    s.finishCheck F =
      (((s.writeDivision (s.finishCheck F).division).writeRecord (s.finishCheck F).record).writeCount
        (s.finishCheck F).recordCount).complete (frameCheck F) := by
  rw [State.finishCheck]
  generalize frameCheck F = c
  rw [State.complete_division, State.complete_record, State.complete_recordCount]
  simp only [State.applyOutcome]
  generalize (frameDivision F).registers = d
  cases c <;> rfl

/-- A command changes the five result registers, and completes: nothing else. -/
theorem exec_eq {i : Instr} {s t : State} (h : exec i s = .next t) :
    t = ((((s.writeDec t.dec).writeDivision t.division).writeRecord t.record).writeCount t.recordCount).complete
      t.result := by
  cases i with
  | eval =>
    obtain rfl | rfl := execEval_cases h
    · rw [State.finishCheck_dec]
      exact State.finishCheck_eq _ _
    · rfl
  | check =>
    cases h
    rw [State.finishCheck_dec]
    exact State.finishCheck_eq s _
  | div =>
    simp only [exec, execDiv] at h
    generalize s.divCommand = r at h
    cases h
    rfl
  | nop | extract | clearCount =>
    cases h
    rfl

/-- The division registers keep their value or take that of a division whose operands fit DIVD and DIVS. -/
theorem exec_division {i : Instr} {s t : State} (h : exec i s = .next t) :
    t.division = s.division ∨
      ∃ (D : WidePoly) (G : Word), t.division = (divide D.toNat G.toNat).registers := by
  have hcheck (F : Frame) : ∃ (D : WidePoly) (G : Word), frameDivision F = divide D.toNat G.toNat := by
    refine ⟨(payloadField F).setWidth 128, bchPoly, ?_⟩
    rw [BitVec.toNat_setWidth_of_le (by decide)]
    rfl
  have hfinish (u : State) (F : Frame) (hu : u.division = s.division) :
      (u.finishCheck F).division = s.division ∨
        ∃ (D : WidePoly) (G : Word), (u.finishCheck F).division = (divide D.toNat G.toNat).registers := by
    rw [State.finishCheck_division]
    split
    · exact .inl hu
    · obtain ⟨D, G, hF⟩ := hcheck F
      exact .inr ⟨D, G, by rw [hF]⟩
  cases i with
  | eval =>
    obtain rfl | rfl := execEval_cases h
    · exact hfinish (s.writeDec _) _ rfl
    · exact .inl rfl
  | check =>
    cases h
    exact hfinish s s.frame rfl
  | div =>
    cases h
    exact .inr ⟨s.dividend, s.divisor, rfl⟩
  | nop | extract | clearCount =>
    cases h
    exact .inl rfl

/-- EVAL and CHECK count a record, and change no other count. -/
theorem exec_recordCount_check {i : Instr} (hi : i = .eval ∨ i = .check) {s t : State} (h : exec i s = .next t) :
    t.recordCount = if t.result = .record then s.recordCount + 1 else s.recordCount := by
  obtain rfl | rfl := hi
  · obtain rfl | rfl := execEval_cases h
    · rw [State.finishCheck_recordCount, State.finishCheck_result, State.writeDec_recordCount]
    · rfl
  · cases h
    rw [State.finishCheck_recordCount, State.finishCheck_result]

/-- RECORD_COUNT changes by EVAL, CHECK and CLEAR_COUNT only (R27). -/
theorem exec_recordCount {i : Instr} {s t : State} (h : exec i s = .next t) :
    t.recordCount = s.recordCount ∨
      ((i = .eval ∨ i = .check) ∧ t.result = .record ∧ t.recordCount = s.recordCount + 1) ∨
      (i = .clearCount ∧ t.recordCount = 0) := by
  have hcheck (hi : i = .eval ∨ i = .check) : t.recordCount = s.recordCount ∨
      (t.result = .record ∧ t.recordCount = s.recordCount + 1) := by
    rw [exec_recordCount_check hi h]
    split
    · exact .inr ⟨‹_›, rfl⟩
    · exact .inl rfl
  cases i with
  | eval => exact (hcheck (.inl rfl)).imp_right fun hr => .inl ⟨.inl rfl, hr⟩
  | check => exact (hcheck (.inr rfl)).imp_right fun hr => .inl ⟨.inr rfl, hr⟩
  | clearCount =>
    cases h
    exact .inr (.inr ⟨rfl, rfl⟩)
  | nop | div | extract =>
    cases h
    exact .inl rfl

/-- The REC registers change by a record and by EXTRACT only (R30). -/
theorem exec_record {i : Instr} {s t : State} (h : exec i s = .next t) :
    t.record = s.record ∨ t.result = .record ∨ i = .extract := by
  have hcheck (u : State) (F : Frame) : (u.finishCheck F).record = u.record ∨ (u.finishCheck F).result = .record := by
    rw [State.finishCheck_record, State.finishCheck_result]
    split
    · exact .inr ‹_›
    · exact .inl rfl
  cases i with
  | eval =>
    obtain rfl | rfl := execEval_cases h
    · exact (hcheck (s.writeDec _) _).imp_right .inl
    · exact .inl rfl
  | check =>
    cases h
    exact (hcheck s s.frame).imp_right .inl
  | extract => exact .inr (.inr rfl)
  | nop | div | clearCount =>
    cases h
    exact .inl rfl

/-! ### The latched word (R151, R156) -/

/-- The completion of a word is that of the command it decodes to, or ILLEGAL_CMD. -/
theorem runLatched_cases {w : Word} {s t : State} (h : runLatched w s = .next t) :
    (∃ i, decodeWord w = .ok i ∧ exec i s = .next t) ∨ t = s.complete .illegalCmd := by
  cases hw : decodeWord w with
  | ok i =>
    rw [runLatched_of_ok hw] at h
    exact .inl ⟨i, rfl, h⟩
  | error e =>
    rw [runLatched_of_error hw] at h
    cases h
    exact .inr rfl

/-- A completion changes the five result registers, RESULT, DONE and BUSY: nothing else. -/
theorem runLatched_eq {w : Word} {s t : State} (h : runLatched w s = .next t) :
    t = ((((s.writeDec t.dec).writeDivision t.division).writeRecord t.record).writeCount t.recordCount).complete
      t.result := by
  obtain ⟨i, -, hexec⟩ | rfl := runLatched_cases h
  · exact exec_eq hexec
  · rfl

/-- A completion leaves the engine idle with DONE = 1, and the parameters, the samples and the outside world alone. -/
theorem runLatched_frame {w : Word} {s t : State} (h : runLatched w s = .next t) :
    t.engine = .idle ∧ t.done = true ∧ t.cfg = s.cfg ∧ t.mem = s.mem ∧ t.env = s.env := by
  rw [runLatched_eq h]
  exact ⟨rfl, rfl, rfl, rfl, rfl⟩

end Sys2Proof.Machine
end

section
/-! SUPPORT. The host's step with the event it takes and the access it makes (spec/30_encoding.md R70, spec/44_host_scan.md
R169, spec/70_reset_and_hazards.md R200, R210), and one step of the reset input. -/

namespace Sys2Proof.Machine

/-- Every host step there is: `s` before, the index after. -/
inductive HostStep (s : State) : State → Prop
  /-- The reset input (R200, R210). -/
  | reset (how : Restart) (rest : List HostEvent) : s.env.inputs = .reset how :: rest →
      HostStep s ((s.setInputs rest).applyReset.restartDriver how)
  /-- An access of the reference driver, at a turn event or with no event pending (R169). -/
  | driver (d : Driver) (a : BusAccess) (rest : List HostEvent) : s.env.driver = some d → d.access? s.cfg = some a →
      s.hostAccess? = some a → s.env.inputs = [] ∧ rest = [] ∨ s.env.inputs = .turn :: rest →
      HostStep s (((s.afterAccess a).setDriver (d.after ((s.accessValue a).getD 0))).setInputs rest)
  /-- A pending access, or one read of a pending poll (R70). -/
  | event (ev : HostEvent) (rest : List HostEvent) (a : BusAccess) (e : Environment) : s.env.inputs = ev :: rest →
      ev.ofScan = false → s.hostAccess? = some a → e.driver = s.env.driver → e.resets = s.env.resets →
      HostStep s { s.afterAccess a with env := e }
  /-- A turn of a driver with nothing left to do, or a poll of another device. -/
  | skip (ev : HostEvent) (rest : List HostEvent) : s.env.inputs = ev :: rest → HostStep s (s.setInputs rest)

/-- A turn of the reference driver, when its turn has come. -/
theorem HostStep.of_driverTurn? {s t : State} {rest : List HostEvent}
    (hi : s.env.inputs = [] ∧ rest = [] ∨ s.env.inputs = .turn :: rest) (h : (s.setInputs rest).driverTurn? = some t) :
    HostStep s t := by
  obtain ⟨d, a, hd, ha, rfl⟩ := State.driverTurn?_some h
  have hda : s.driverAccess? = some a := by
    rw [State.driverAccess?, show s.env.driver = some d from hd, Option.bind_some]
    exact ha
  have hhost : s.hostAccess? = some a := by
    obtain ⟨hi, -⟩ | hi := hi <;> rw [State.hostAccess?, hi] <;> exact hda
  rw [State.afterAccess_setInputs]
  exact .driver d a rest hd ha hhost hi

/-- One read of a pending poll, or nothing where another device is addressed. -/
theorem HostStep.of_poll {s : State} {addr : Nat} {mask expected : Word} {rest : List HostEvent}
    (h : s.env.inputs = .poll addr mask expected :: rest) :
    HostStep s ((s.setInputs rest).performEvent (.poll addr mask expected)) := by
  have hhost : s.hostAccess? = some (.read addr .word) := by rw [State.hostAccess?, h]
  obtain ⟨-, -, -, -, -, -, -, hdriver, hresets⟩ := s.afterAccess_frame (.read addr .word)
  simp only [State.performEvent, State.afterAccess_setInputs]
  split
  · split
    · exact .event _ rest _ _ h rfl hhost hdriver hresets
    · exact .event _ rest _ _ h rfl hhost hdriver hresets
  · exact .skip _ rest h

theorem State.hostTurn?_step {s t : State} (h : s.hostTurn? = some t) : HostStep s t := by
  cases hi : s.env.inputs with
  | nil =>
    rw [State.hostTurn?, hi] at h
    have hs : s.setInputs [] = s := by rw [← hi]; rfl
    exact .of_driverTurn? (.inl ⟨hi, rfl⟩) (hs ▸ h)
  | cons ev rest =>
    rw [State.hostTurn?, hi] at h
    cases h
    cases ev with
    | access a =>
      have hhost : s.hostAccess? = some a := by rw [State.hostAccess?, hi]
      obtain ⟨-, -, -, -, -, -, -, hdriver, hresets⟩ := s.afterAccess_frame a
      simp only [State.performEvent, State.afterAccess_setInputs]
      cases (s.setInputs rest).accessValue a <;> exact .event _ rest _ _ hi rfl hhost hdriver hresets
    | poll addr mask expected => exact .of_poll hi
    | turn =>
      rw [State.performEvent]
      cases ht : (s.setInputs rest).driverTurn? with
      | none => exact .skip _ rest hi
      | some u => exact .of_driverTurn? (.inr hi) ht
    | reset how => exact .reset how rest hi

/-- Every step: a completion, a host step of an idle block, one before which a running command counts its wait down, or
none. -/
inductive StepKind (s t : State) : Prop
  | completes (w : Word) (n : Nat) : s.engine = .running w n → runLatched w s = .next t → StepKind s t
  | host (u : State) : s.engine = .idle ∧ u = s ∨ (∃ w n, s.engine = .running w (n + 1) ∧ u = s.tick w n) → HostStep u t →
      StepKind s t
  | rests : s.engine = .idle → s.hostTurn? = none → t = s → StepKind s t

theorem step_kind {s t : State} (h : step s = .next t) : StepKind s t := by
  obtain ⟨w, n, hw, hrun⟩ | ⟨w, n, hw, ht⟩ | ⟨hi, ht⟩ | ⟨hi, hn, rfl⟩ := step_cases h
  · exact .completes w n hw hrun
  · exact .host _ (.inr ⟨w, n, hw, rfl⟩) (State.hostTurn?_step ht)
  · exact .host s (.inl ⟨hi, rfl⟩) (State.hostTurn?_step ht)
  · exact .rests hi hn rfl

/-! ### STATUS.BUSY as the host polls it (R71) -/

theorem State.getLsbD_statusWord_busy (s : State) : (s.readReg .status).getLsbD 0 = s.busy := by
  show (_ ++ BitVec.ofBool s.busy : BitVec 32).getLsbD 0 = s.busy
  rw [BitVec.getLsbD_append]
  simp

/-- The poll of `wait` is satisfied by a word with bit 0 clear. -/
theorem pollDone_busy (v : Word) : pollDone 1 0 v = !v.getLsbD 0 := by
  rw [pollDone, show v &&& 1 = (BitVec.ofBool (v.getLsbD 0)).setWidth 32 from
    BitVec.and_one_eq_setWidth_ofBool_getLsbD]
  cases v.getLsbD 0 <;> rfl

theorem pollDone_status (s : State) : pollDone 1 0 (s.readReg .status) = !s.busy := by
  rw [pollDone_busy, s.getLsbD_statusWord_busy]

/-! ### The reset input -/

/-- The reset input comes before a completion that is not due yet (R200). -/
theorem step_reset {s : State} {how : Restart} {rest : List HostEvent} {w : Word} {n : Nat}
    (h : s.env.inputs = .reset how :: rest) (he : s.engine = .idle ∨ s.engine = .running w (n + 1)) :
    step s = .next ((s.setInputs rest).applyReset.restartDriver how) := by
  obtain he | he := he
  · rw [step, he]
    simp only [State.hostTurn?, h]
    rfl
  · rw [step, he]
    simp only [State.hostTurn?, State.tick_env, h]
    rfl

end Sys2Proof.Machine
end

section
/-! SUPPORT. What one step can do to the result registers and to the sample memory (spec/10_state.md section 3,
spec/20_memory.md R49). -/

namespace Sys2Proof.Machine

/-- What no bus access writes: the parameters, RESULT and the result registers. -/
structure SameResults (s t : State) : Prop where
  cfg : t.cfg = s.cfg
  result : t.result = s.result
  division : t.division = s.division
  record : t.record = s.record
  recordCount : t.recordCount = s.recordCount

theorem State.afterAccess_sameResults (s : State) (a : BusAccess) : SameResults s (s.afterAccess a) := by
  obtain ⟨hcfg, hresult, hdivision, hrecord, -, hcount, -⟩ := s.afterAccess_frame a
  exact ⟨hcfg, hresult, hdivision, hrecord, hcount⟩

/-- A host step but the reset input is at most one bus access. -/
theorem HostStep.reset_or_sameResults {s t : State} (h : HostStep s t) :
    (∃ how rest, s.env.inputs = .reset how :: rest ∧ t = (s.setInputs rest).applyReset.restartDriver how) ∨
      SameResults s t := by
  cases h with
  | reset how rest hi => exact .inl ⟨how, rest, hi, rfl⟩
  | driver d a rest =>
    obtain ⟨hcfg, hresult, hdivision, hrecord, hcount⟩ := s.afterAccess_sameResults a
    exact .inr ⟨hcfg, hresult, hdivision, hrecord, hcount⟩
  | event ev rest a e =>
    obtain ⟨hcfg, hresult, hdivision, hrecord, hcount⟩ := s.afterAccess_sameResults a
    exact .inr ⟨hcfg, hresult, hdivision, hrecord, hcount⟩
  | skip ev rest => exact .inr ⟨rfl, rfl, rfl, rfl, rfl⟩

/-- What a step can do to the result registers: a completion, the reset input, or nothing. -/
theorem step_results {s t : State} (h : step s = .next t) :
    (∃ w n, s.engine = .running w n ∧ runLatched w s = .next t) ∨
    (∃ how rest, s.env.inputs = .reset how :: rest ∧ t = (s.setInputs rest).applyReset.restartDriver how) ∨
    SameResults s t := by
  cases step_kind h with
  | completes w n hw hrun => exact .inl ⟨w, n, hw, hrun⟩
  | host u hu ht =>
    right
    obtain ⟨-, rfl⟩ | ⟨w, n, -, rfl⟩ := hu
    · exact ht.reset_or_sameResults
    · obtain hreset | hsame := ht.reset_or_sameResults
      · exact .inl hreset
      · exact .inr ⟨hsame.cfg, hsame.result, hsame.division, hsame.record, hsame.recordCount⟩
  | rests _ _ ht =>
    subst ht
    exact .inr (.inr ⟨rfl, rfl, rfl, rfl, rfl⟩)

/-- Only a write to an idle block's sample word changes the memory (R46, R47). -/
theorem State.afterAccess_mem {s : State} {a : BusAccess} (h : (s.afterAccess a).mem ≠ s.mem) :
    s.busy = false ∧ ∃ addr v o, a = .write addr .word v ∧ Config.windowOffset? s.cfg addr = some o ∧
      Config.target s.cfg o .word = .sampleWord o ∧ s.afterAccess a = s.storeWord o v := by
  have heffect := s.afterAccess_cases a
  generalize ht : s.afterAccess a = t at h heffect
  cases heffect with
  | nothing | accErr | locked => exact absurd rfl h
  | register r v =>
    obtain ⟨-, hmem, -⟩ := s.writeReg_frame v r
    exact absurd hmem h
  | sample o v ha hb h4 h1 h2 =>
    subst ha
    by_cases ho : o < windowBytes
    · exact ⟨hb, _, v, o, rfl, Config.windowOffset?_base _ _ ho, Config.target_sample h4 h1 h2, rfl⟩
    · have hnone : Config.windowOffset? s.cfg (s.cfg.base + o) = none := if_neg (by omega)
      simp only [State.afterAccess, hnone] at ht
      exact absurd (congrArg State.mem ht.symm) h

/-- A host step changes the memory by the reset input, or by the store of the access it makes. -/
theorem HostStep.mem {s t : State} (h : HostStep s t) (hm : t.mem ≠ s.mem) :
    (∃ how rest, s.env.inputs = .reset how :: rest ∧ t.mem = []) ∨
      (∃ a, s.hostAccess? = some a ∧ (s.afterAccess a).mem ≠ s.mem ∧ t.mem = (s.afterAccess a).mem ∧
        t.env.resets = s.env.resets) := by
  cases h with
  | reset how rest hi => exact .inl ⟨how, rest, hi, rfl⟩
  | driver d a rest _ _ ha =>
    obtain ⟨-, -, -, -, -, -, -, -, hresets⟩ := s.afterAccess_frame a
    exact .inr ⟨a, ha, hm, rfl, hresets⟩
  | event ev rest a e _ _ ha _ hresets => exact .inr ⟨a, ha, hm, rfl, hresets⟩
  | skip ev rest => exact absurd rfl hm

end Sys2Proof.Machine
end

section
/-! PROOFS. The statements about what one step changes (spec/10_state.md section 3, spec/20_memory.md section 4). -/

namespace Sys2Proof.Proofs

open Sys2Proof Sys2Proof.Machine

/-- Settles O38: a host step but reset writes no result register, so a change is a completion's. -/
theorem recordCountRule : Obligations.RecordCountRule := by
  refine ⟨fun s t h => ?_, fun s i hi => ?_, fun s => ⟨_, rfl, rfl⟩, rfl⟩
  · obtain ⟨w, n, hw, hrun⟩ | ⟨how, rest, hinputs, rfl⟩ | hsame := step_results h
    · obtain ⟨hidle, -⟩ := runLatched_frame hrun
      obtain ⟨i, hdecode, hexec⟩ | rfl := runLatched_cases hrun
      · obtain hcount | ⟨hi, hresult, hcount⟩ | ⟨rfl, hcount⟩ := exec_recordCount hexec
        · exact .inl hcount
        · have hword : decodeWord w = .ok .eval ∨ decodeWord w = .ok .check := by
            obtain rfl | rfl := hi
            · exact .inl hdecode
            · exact .inr hdecode
          exact .inr (.inl ⟨w, n, hw, hword, hidle, hresult, hcount⟩)
        · exact .inr (.inr (.inl ⟨w, n, hw, hdecode, hidle, hcount⟩))
      · exact .inl rfl
    · exact .inr (.inr (.inr ⟨how, rest, hinputs, rfl⟩))
    · exact .inl hsame.recordCount
  · obtain ⟨t, ht, -⟩ := exec_next i s
    exact ⟨t, ht, fun hresult => by rw [exec_recordCount_check hi ht, if_pos hresult]⟩

/-- Settles O39: a host step but reset writes no result register, and of the commands only a record and EXTRACT do. -/
theorem recordRegistersRule : Obligations.RecordRegistersRule := by
  intro s t h
  obtain ⟨w, n, hw, hrun⟩ | ⟨how, rest, hinputs, rfl⟩ | hsame := step_results h
  · obtain ⟨hidle, hdone, -⟩ := runLatched_frame hrun
    obtain ⟨i, hdecode, hexec⟩ | rfl := runLatched_cases hrun
    · obtain hrecord | hresult | rfl := exec_record hexec
      · exact .inl hrecord
      · exact .inr (.inl ⟨w, n, hw, hidle, hdone, .inl hresult⟩)
      · exact .inr (.inl ⟨w, n, hw, hidle, hdone, .inr hdecode⟩)
    · exact .inl rfl
  · have hzero : ∀ r ∈ recordRegs, State.reset.readReg r = 0 := by decide
    refine .inr (.inr ⟨how, rest, hinputs, fun r hr => ?_⟩)
    rw [State.readReg_restartDriver, State.readReg_applyReset, hzero r hr]
  · exact .inl hsame.record

/-- Settles O40: of all steps only the reset input and an access change the memory, and of the accesses only a store. -/
theorem onlyTheHostWritesSamples : Obligations.OnlyTheHostWritesSamples := by
  intro s t h hm
  cases step_kind h with
  | completes w n hw hrun =>
    obtain ⟨-, -, -, hmem, -⟩ := runLatched_frame hrun
    exact absurd hmem hm
  | host u hu ht =>
    obtain ⟨hi, rfl⟩ | ⟨w, n, -, rfl⟩ := hu
    · obtain hreset | ⟨a, ha, hne, hmem, hresets⟩ := ht.mem hm
      · exact .inl hreset
      · obtain ⟨hb, addr, v, o, rfl, ho, htarget, hstore⟩ := State.afterAccess_mem hne
        rw [hstore] at hmem
        refine .inr ⟨hb, addr, v, o, ha, ho, htarget, hmem, fun x hx => ?_⟩
        rw [State.byteAt_congr (s := u.storeWord o v) hmem hresets, State.byteAt_storeWord_ne u v hx]
    · obtain hreset | ⟨a, -, hne, -⟩ := ht.mem hm
      · exact .inl hreset
      · obtain ⟨hb, -⟩ := State.afterAccess_mem hne
        cases (s.busy_tick w n).symm.trans hb
  | rests _ _ ht => exact absurd (congrArg State.mem ht) hm

/-- Settles O41: no completion, no access and no reset writes the parameters. -/
theorem configurationIsFixed : Obligations.ConfigurationIsFixed := by
  intro s t h
  obtain ⟨w, n, -, hrun⟩ | ⟨how, rest, -, rfl⟩ | hsame := step_results h
  · obtain ⟨-, -, hcfg, -⟩ := runLatched_frame hrun
    exact hcfg
  · rfl
  · exact hsame.cfg

end Sys2Proof.Proofs
end

section
/-! SUPPORT. The invariant of a well-built block, kept by every operation (spec/60_exceptions.md R180, spec/10_state.md). -/

namespace Sys2Proof.Machine

/-! ### Results of a completion -/

theorem Instr.results_codes (i : Instr) : ResultCode.none ∉ Instr.results i ∧ ResultCode.divInvalidBit ∉ Instr.results i := by
  cases i <;> decide

theorem runLatched_result {w : Word} {s t : State} (h : runLatched w s = .next t) :
    t.result ≠ .none ∧ t.result ≠ .divInvalidBit := by
  obtain ⟨i, -, hexec⟩ | rfl := runLatched_cases h
  · have hmem := exec_result hexec
    obtain ⟨hnone, hbit⟩ := Instr.results_codes i
    exact ⟨fun e => hnone (e ▸ hmem), fun e => hbit (e ▸ hmem)⟩
  · exact ⟨ResultCode.noConfusion, ResultCode.noConfusion⟩

/-- DIV_LEN holds the lengths of REM and QUOT, which fit their registers (R35). -/
def Division.LengthsMatch (d : Division) : Prop :=
  d.remLen.toNat = bitlen d.rem.toNat ∧ d.quotLen.toNat = bitlen d.quot.toNat

theorem Division.lengthsMatch_zero : Division.zero.LengthsMatch := ⟨rfl, rfl⟩

theorem divide_registers_lengthsMatch (D : WidePoly) (G : Word) :
    (divide D.toNat G.toNat).registers.LengthsMatch := by
  cases hdiv : divide D.toNat G.toNat with
  | invalidOperand => exact Division.lengthsMatch_zero
  | divisorTooLarge => exact Division.lengthsMatch_zero
  | ok R Q rl ql =>
    obtain ⟨hrl, hql⟩ := divide_lengths_le hdiv (bitlen_toNat_le D) (bitlen_toNat_le G)
    obtain ⟨-, -, hR, hQ⟩ := divide_eq_ok_iff.mp hdiv
    have hR31 : R < 2 ^ 31 := bitlen_le.mp (hR ▸ hrl)
    have hQ128 : Q < 2 ^ 128 := bitlen_le.mp (hQ ▸ hql)
    have hrem : (BitVec.ofNat 31 R).toNat = R := Nat.mod_eq_of_lt hR31
    have hquot : (BitVec.ofNat 128 Q).toNat = Q := Nat.mod_eq_of_lt hQ128
    have hremLen : (BitVec.ofNat 8 rl).toNat = rl := Nat.mod_eq_of_lt (by omega)
    have hquotLen : (BitVec.ofNat 8 ql).toNat = ql := Nat.mod_eq_of_lt (by omega)
    exact ⟨by rw [DivideResult.registers, hremLen, hrem, hR], by rw [DivideResult.registers, hquotLen, hquot, hQ]⟩

theorem runLatched_lengthsMatch {w : Word} {s t : State} (h : runLatched w s = .next t) (hs : s.division.LengthsMatch) :
    t.division.LengthsMatch := by
  obtain ⟨i, -, hexec⟩ | rfl := runLatched_cases h
  · obtain hsame | ⟨D, G, hdiv⟩ := exec_division hexec
    · rwa [hsame]
    · rw [hdiv]
      exact divide_registers_lengthsMatch D G
  · exact hs

/-! ### Each operation keeps the invariant -/

/-- R200: the reset values meet the invariant of every block built with legal parameters. -/
theorem State.Inv.applyReset {s : State} (h : s.cfg.wf = true) : s.applyReset.Inv where
  config := h
  canonical := rfl
  mapped := rfl
  nsamp := Nat.zero_le _
  doneIdle := Bool.noConfusion
  doneRan := Bool.noConfusion
  noInvalidBit := ResultCode.noConfusion
  remLen := rfl
  quotLen := rfl

theorem State.Inv.withEnv {s : State} (h : s.Inv) (e : Environment) : State.Inv { s with env := e } where
  config := h.config
  canonical := h.canonical
  mapped := h.mapped
  nsamp := h.nsamp
  doneIdle := h.doneIdle
  doneRan := h.doneRan
  noInvalidBit := h.noInvalidBit
  remLen := h.remLen
  quotLen := h.quotLen

/-- While a command runs DONE is 0, so the wait may count down. -/
theorem State.Inv.tick {s : State} (h : s.Inv) {w : Word} {n k : Nat} (hw : s.engine = .running w n) :
    (s.tick w k).Inv :=
  { h with
    doneIdle := fun hdone => by
      cases (h.doneIdle hdone).symm.trans (State.is_busy hw) }

theorem State.Inv.runLatched {s t : State} (h : s.Inv) {w : Word} (hrun : runLatched w s = .next t) : t.Inv := by
  obtain ⟨hresult, hbit⟩ := runLatched_result hrun
  obtain ⟨hrem, hquot⟩ := runLatched_lengthsMatch hrun ⟨h.remLen, h.quotLen⟩
  rw [runLatched_eq hrun]
  exact ⟨h.config, h.canonical, h.mapped, h.nsamp, fun _ => rfl, fun _ => hresult, hbit, hrem, hquot⟩

/-- DONE is set by no register write, and cleared by the issue of a command (R150). -/
theorem State.writeReg_done {s : State} {v : Word} {r : Reg} (h : (s.writeReg v r).done = true) :
    r ≠ .cmd ∧ s.done = true := by
  cases r with
  | cmd => cases h
  | status => exact ⟨Reg.noConfusion, (Bool.and_eq_true_iff.mp h).1⟩
  | _ => exact ⟨Reg.noConfusion, h⟩

/-- NSAMP stores at most SAMPLE_CAP (R26). -/
theorem State.writeReg_nsamp_le {s : State} (v : Word) (r : Reg) (h : s.nsamp.toNat ≤ s.cfg.sampleCap) :
    (s.writeReg v r).nsamp.toNat ≤ s.cfg.sampleCap := by
  cases r with
  | nsamp => exact (Nat.mod_le _ _).trans (Nat.min_le_right _ _)
  | _ => exact h

theorem State.Inv.writeReg {s : State} (h : s.Inv) (v : Word) (r : Reg) : (s.writeReg v r).Inv := by
  obtain ⟨hcfg, hmem, hresult, hdivision, -⟩ := s.writeReg_frame v r
  refine ⟨hcfg ▸ h.config, hmem ▸ h.canonical, ?_, ?_, fun hdone => ?_, fun hdone => ?_, hresult ▸ h.noInvalidBit,
    hdivision ▸ h.remLen, hdivision ▸ h.quotLen⟩
  · rw [hmem, hcfg]
    exact h.mapped
  · rw [hcfg]
    exact State.writeReg_nsamp_le v r h.nsamp
  · obtain ⟨hcmd, hs⟩ := State.writeReg_done hdone
    rw [State.busy_eq, s.writeReg_engine v hcmd]
    exact h.doneIdle hs
  · rw [hresult]
    exact h.doneRan (State.writeReg_done hdone).2

/-- A sample word lies inside the sample memory whole, as SAMPLE_CAP is even (R15, R44). -/
theorem State.Inv.storeWord {s : State} (h : s.Inv) {o : Nat} (v : Word) (h4 : o % 4 = 0) (h1 : sampleBase ≤ o)
    (h2 : o < sampleBase + 2 * s.cfg.sampleCap) : (s.storeWord o v).Inv := by
  have heven : s.cfg.sampleCap % 2 = 0 := by
    have hwf := h.config
    simp only [Config.wf, Bool.and_eq_true, beq_iff_eq] at hwf
    exact hwf.1.1.1
  have hend : o + (bytesOfWord v).length ≤ sampleBase + 2 * s.cfg.sampleCap := by
    simp only [bytesOfWord, List.length_cons, List.length_nil, sampleBase] at h2 ⊢
    omega
  exact { h with
    canonical := Memory.wf_writeRun o _ h.canonical
    mapped := Memory.within_writeRun h.mapped h1 hend }

theorem State.Inv.afterAccess {s : State} (h : s.Inv) (a : BusAccess) : (s.afterAccess a).Inv := by
  have heffect := s.afterAccess_cases a
  generalize s.afterAccess a = t at heffect ⊢
  cases heffect with
  | nothing => exact h
  | accErr => exact { h with }
  | locked => exact { h with }
  | register r v => exact h.writeReg v r
  | sample o v _ _ h4 h1 h2 => exact h.storeWord v h4 h1 h2

theorem State.Inv.hostStep {s t : State} (h : s.Inv) (ht : HostStep s t) : t.Inv := by
  cases ht with
  | reset how rest => exact (State.Inv.applyReset (s := s.setInputs rest) h.config).withEnv _
  | driver d a rest => exact (h.afterAccess a).withEnv _
  | event ev rest a e => exact (h.afterAccess a).withEnv e
  | skip ev rest => exact h.withEnv _

theorem State.Inv.step {s t : State} (h : s.Inv) (hstep : step s = .next t) : t.Inv := by
  cases step_kind hstep with
  | completes w n hw hrun => exact h.runLatched hrun
  | host u hu ht =>
    obtain ⟨-, rfl⟩ | ⟨w, n, hw, rfl⟩ := hu
    · exact h.hostStep ht
    · exact (h.tick hw).hostStep ht
  | rests _ _ ht => exact ht ▸ h

end Sys2Proof.Machine
end

section
/-! PROOFS. The statements about the block's invariant (spec/60_exceptions.md section 1). -/

namespace Sys2Proof.Proofs

open Sys2Proof Sys2Proof.Machine

/-- Settles O47: a step always goes on, and each kind of step keeps the invariant. -/
theorem everyStepKeepsTheInvariant : Obligations.EveryStepKeepsTheInvariant := by
  intro s h
  obtain ⟨t, ht⟩ := step_next s
  exact ⟨t, ht, h.step ht⟩

/-- Settles O46: the state right after reset is what the reset input makes of it, but for the count of resets. -/
theorem resetMeetsTheInvariant : Obligations.ResetMeetsTheInvariant :=
  (State.Inv.applyReset (s := .reset) (by decide)).withEnv .empty

end Sys2Proof.Proofs
end

section
/-! SUPPORT. Runs of a few steps: a running command up to its completion, a host that polls, and a host that writes registers
(spec/43_control.md R150 to R152, spec/30_encoding.md R70, R71); STATUS after a completion (spec/60_exceptions.md R181). -/

namespace Sys2Proof.Machine

theorem run_succ {s u : State} (h : step s = .next u) (k : Nat) : core.run (k + 1) s = core.run k u := by
  simp only [Host.Core.run, show core.step s = .next u from h]

/-! ### One step, by the engine and the host's turn (R150 to R153) -/

theorem step_of_due {s : State} {w : Word} (h : s.engine = .running w 0) : step s = runLatched w s := by
  rw [step, h]

theorem step_of_no_hostTurn {s : State} {w : Word} {n : Nat} (h : s.engine = .running w n)
    (ht : (s.tick w (n - 1)).hostTurn? = none) : step s = runLatched w s := by
  cases n with
  | zero => exact step_of_due h
  | succ n => simp only [step, h, show (s.tick w n).hostTurn? = none from ht]

theorem step_of_hostTurn {s t : State} {w : Word} {n : Nat} (h : s.engine = .running w (n + 1))
    (ht : (s.tick w n).hostTurn? = some t) : step s = .next t := by
  simp only [step, h, ht]

theorem step_of_idle {s t : State} (h : s.engine = .idle) (ht : s.hostTurn? = some t) : step s = .next t := by
  simp only [step, h, ht]

theorem step_of_rest {s : State} (h : s.engine = .idle) (ht : s.hostTurn? = none) : step s = .next s := by
  simp only [step, h, ht]

theorem State.hostTurn?_cons {s : State} {ev : HostEvent} {rest : List HostEvent} (h : s.env.inputs = ev :: rest) :
    s.hostTurn? = some ((s.setInputs rest).performEvent ev) := by
  rw [State.hostTurn?, h]

/-! ### A running command (R152) -/

/-- What ends the command `w` in `u`, which a step takes to `t`: its completion, or the reset input. -/
def EndsCommand (w : Word) (u t : State) : Prop :=
  step u = .next t ∧ t.engine = .idle ∧
    ((runLatched w u = .next t ∧ t.done = true) ∨ (∃ how rest, u.env.inputs = .reset how :: rest ∧ t.done = false))

theorem endsCommand_of_step {s : State} {w : Word} (h : step s = runLatched w s) : ∃ t, EndsCommand w s t := by
  obtain ⟨t, hrun, hidle, hdone, -⟩ := runLatched_next w s
  exact ⟨t, h.trans hrun, hidle, .inl ⟨hrun, hdone⟩⟩

/-- The command ends after as many steps as its wait allows. -/
theorem exists_endsCommand {s : State} {w : Word} {n : Nat} (h : s.engine = .running w n) :
    ∃ k ≤ n, ∃ (u t : State) (m : Nat), core.run k s = .next u ∧ u.engine = .running w m ∧ EndsCommand w u t := by
  induction n generalizing s with
  | zero =>
    obtain ⟨t, ht⟩ := endsCommand_of_step (step_of_due h)
    exact ⟨0, Nat.le_refl 0, s, t, 0, rfl, h, ht⟩
  | succ n ih =>
    cases hturn : (s.tick w n).hostTurn? with
    | none =>
      obtain ⟨t, ht⟩ := endsCommand_of_step (step_of_no_hostTurn h hturn)
      exact ⟨0, Nat.zero_le _, s, t, n + 1, rfl, h, ht⟩
    | some t =>
      have hstep := step_of_hostTurn h hturn
      have hlater (ht : t.engine = .running w n) : ∃ k ≤ n + 1, ∃ (u v : State) (m : Nat), core.run k s = .next u ∧
          u.engine = .running w m ∧ EndsCommand w u v := by
        obtain ⟨k, hk, u, v, m, hrun, hu⟩ := ih ht
        exact ⟨k + 1, Nat.succ_le_succ hk, u, v, m, (run_succ hstep k).trans hrun, hu⟩
      obtain ⟨how, rest, hinputs, rfl⟩ | ⟨a, e, rfl, -⟩ | ⟨e, rfl, -⟩ := State.hostTurn?_cases hturn
      · exact ⟨0, Nat.zero_le _, s, _, n + 1, rfl, h, hstep, rfl, .inr ⟨how, rest, hinputs, rfl⟩⟩
      · exact hlater (State.afterAccess_keepsRunning (s.busy_tick w n) a).engine
      · exact hlater rfl

/-! ### A host that polls STATUS (R71) -/

theorem State.performEvent_poll (s : State) (r : Reg) (mask expected : Word) :
    s.performEvent (HostAsm.poll s.cfg r mask expected) =
      if pollDone mask expected (s.readReg r) then s.observe (some (s.readReg r))
      else s.setInputs (HostAsm.poll s.cfg r mask expected :: s.env.inputs) := by
  simp only [HostAsm.poll, State.performEvent, State.accessValue_read_reg, State.afterAccess_read_reg]

/-- While the command runs, the poll reads BUSY = 1 and stays pending: only the wait counts down. -/
theorem step_wait_running {s : State} {w : Word} {n : Nat} (h : s.engine = .running w (n + 1))
    (hi : s.env.inputs = HostAsm.wait s.cfg) : step s = .next (s.tick w n) := by
  refine step_of_hostTurn h ?_
  have hbusy : pollDone 1 0 (((s.tick w n).setInputs []).readReg .status) = false := by
    rw [pollDone_status, State.busy_setInputs, State.busy_tick]
    rfl
  refine (State.hostTurn?_cons (s := s.tick w n) hi).trans (congrArg some ?_)
  refine (State.performEvent_poll ((s.tick w n).setInputs []) .status 1 0).trans ?_
  rw [hbusy, if_neg Bool.false_ne_true]
  show (s.tick w n).setInputs (HostAsm.wait s.cfg) = _
  rw [← hi]
  rfl

/-- On an idle block the poll succeeds, and its value is observed. -/
theorem step_wait_idle {s : State} (h : s.engine = .idle) (hi : s.env.inputs = HostAsm.wait s.cfg) :
    step s = .next ((s.setInputs []).observe (some (s.readReg .status))) := by
  refine step_of_idle h ?_
  have hidle : pollDone 1 0 (s.readReg .status) = true := by
    rw [pollDone_status, State.not_busy h]
    rfl
  refine (State.hostTurn?_cons hi).trans (congrArg some ?_)
  refine (State.performEvent_poll (s.setInputs []) .status 1 0).trans ?_
  rw [State.readReg_setInputs, hidle, if_pos rfl]

/-- The wait of a polling host only counts down. -/
theorem run_wait {s : State} {w : Word} {n : Nat} (h : s.engine = .running w n) (hi : s.env.inputs = HostAsm.wait s.cfg)
    (k : Nat) : core.run (n + k) s = core.run k (s.tick w 0) := by
  induction n generalizing s with
  | zero =>
    rw [Nat.zero_add, State.tick, ← h]
  | succ n ih =>
    rw [Nat.add_right_comm, run_succ (step_wait_running h hi)]
    exact ih rfl hi

/-! ### A host that writes registers (R70) -/

theorem State.performEvent_wr {s : State} (h : s.engine = .idle) (r : Reg) (v : Word) :
    s.performEvent (HostAsm.wr s.cfg r v) = s.writeReg v r := by
  show (s.afterAccess (.write (s.cfg.base + r.offset) .word v)).observe none = _
  rw [State.afterAccess_write_reg, State.not_busy h, Bool.and_false, if_neg Bool.false_ne_true, State.observe_none]

theorem step_wr {s : State} {r : Reg} {v : Word} {rest : List HostEvent} (h : s.engine = .idle)
    (hi : s.env.inputs = HostAsm.wr s.cfg r v :: rest) : step s = .next ((s.setInputs rest).writeReg v r) :=
  step_of_idle h ((State.hostTurn?_cons hi).trans (congrArg some (State.performEvent_wr (s := s.setInputs rest) h r v)))

/-- Writes to different operand registers of an idle block leave each its value, and every other register alone. -/
theorem run_writes (ws : List (Reg × Word)) (hws : ∀ x ∈ ws, x.1.locked = true ∧ x.1 ≠ .cmd ∧ x.1 ≠ .nsamp)
    (hnodup : (ws.map Prod.fst).Nodup) {s : State} (h : s.engine = .idle)
    (hi : s.env.inputs = ws.map fun x => HostAsm.wr s.cfg x.1 x.2) :
    ∃ t : State, core.run ws.length s = .next t ∧ t.env.inputs = [] ∧ (∀ x ∈ ws, t.readReg x.1 = x.2) ∧
      ∀ q, q ∉ ws.map Prod.fst → t.readReg q = s.readReg q := by
  induction ws generalizing s with
  | nil => exact ⟨s, rfl, hi, by simp, fun _ _ => rfl⟩
  | cons x ws ih =>
    obtain ⟨r, v⟩ := x
    obtain ⟨⟨hlocked, hcmd, hnsamp⟩, htail⟩ := List.forall_mem_cons.mp hws
    rw [List.map_cons, List.nodup_cons] at hnodup
    have hstep := step_wr h hi
    generalize hrest : ws.map (fun x => HostAsm.wr s.cfg x.1 x.2) = rest at hstep
    obtain ⟨hcfg, -, -, -, -, -, -, hinputs, -⟩ := (s.setInputs rest).writeReg_frame v r
    obtain ⟨t, hrun, hdone, hset, hkeep⟩ := ih htail hnodup.2
      ((State.writeReg_engine (s.setInputs rest) v hcmd).trans h) (by rw [hinputs, hcfg]; exact hrest.symm)
    refine ⟨t, (run_succ hstep _).trans hrun, hdone, List.forall_mem_cons.mpr ⟨?_, hset⟩, fun q hq => ?_⟩
    · exact (hkeep r hnodup.1).trans (State.readReg_writeReg_self _ v hlocked hcmd hnsamp)
    · rw [List.map_cons, List.mem_cons, not_or] at hq
      rw [hkeep q hq.2, State.readReg_writeReg_ne _ v hcmd hq.1, State.readReg_setInputs]

/-! ### STATUS after a completion (R151, R181) -/

/-- STATUS after a completion: the two error flags as before, DONE = 1, BUSY = 0 and the code. -/
theorem State.readReg_status_complete (s : State) (c : ResultCode) :
    (s.complete c).readReg .status = (s.readReg .status &&& 0xC#32) ||| 0x2#32 ||| (c.code.setWidth 32 <<< 8) := by
  have hflags : s.readReg .status &&& 0xC#32 =
      0#20 ++ 0#4 ++ 0#4 ++ BitVec.ofBool s.accErr ++ BitVec.ofBool s.busyWrErr ++ 0#1 ++ 0#1 := by
    show (0#20 ++ s.result.code ++ 0#4 ++ BitVec.ofBool s.accErr ++ BitVec.ofBool s.busyWrErr ++ BitVec.ofBool s.done ++
      BitVec.ofBool s.busy) &&& (0#20 ++ 0#4 ++ 0#4 ++ BitVec.allOnes 1 ++ BitVec.allOnes 1 ++ 0#1 ++ 0#1) = _
    simp only [BitVec.and_append, BitVec.and_zero, BitVec.and_allOnes]
  have hcode : c.code.setWidth 32 <<< 8 = 0#20 ++ c.code ++ 0#4 ++ 0#1 ++ 0#1 ++ 0#1 ++ 0#1 := by
    cases c <;> rfl
  have hdone : 0x2#32 = 0#20 ++ 0#4 ++ 0#4 ++ 0#1 ++ 0#1 ++ 1#1 ++ 0#1 := rfl
  rw [hflags, hcode, hdone]
  show _ = (0#20 ++ 0#4 ++ 0#4 ++ BitVec.ofBool s.accErr ++ BitVec.ofBool s.busyWrErr ++ 0#1 ++ 0#1) |||
    (0#20 ++ 0#4 ++ 0#4 ++ 0#1 ++ 0#1 ++ 1#1 ++ 0#1) ||| (0#20 ++ c.code ++ 0#4 ++ 0#1 ++ 0#1 ++ 0#1 ++ 0#1)
  simp only [BitVec.or_append, BitVec.zero_or, BitVec.or_zero]
  rfl

/-- The five result registers are no part of STATUS. -/
theorem exec_status {i : Instr} {s t : State} (h : exec i s = .next t) :
    t.readReg .status = (s.readReg .status &&& 0xC#32) ||| 0x2#32 ||| (t.result.code.setWidth 32 <<< 8) := by
  have heq := congrArg (State.readReg · .status) (exec_eq h)
  exact heq.trans (State.readReg_status_complete _ t.result)

end Sys2Proof.Machine
end

section
/-! PROOFS. The statements about the step, latency and the host's programs (spec/43_control.md, spec/30_encoding.md,
spec/60_exceptions.md). -/

namespace Sys2Proof.Proofs

open Sys2Proof Sys2Proof.Machine

/-- Settles O9: the host's steps leave the command running but for the reset input, and each takes one off its wait. -/
theorem commandCompletesWithinItsLatency : Obligations.CommandCompletesWithinItsLatency :=
  fun _ _ _ h => exists_endsCommand h

/-- Settles O10: the latency only delays the completion, whose state the poll then finds idle. -/
theorem latencyDoesNotChangeTheResult : Obligations.LatencyDoesNotChangeTheResult := by
  intro s w n h hi
  obtain ⟨u, hrun, hidle, hdone, hcfg, -, henv⟩ := runLatched_next w (s.tick w 0)
  have hwait : u.env.inputs = HostAsm.wait u.cfg := by
    rw [henv, hcfg]
    exact hi
  have htwo : core.run 2 (s.tick w 0) = .next ((u.setInputs []).observe (some (u.readReg .status))) := by
    rw [run_succ ((step_of_due rfl).trans hrun), run_succ (step_wait_idle hidle hwait)]
    rfl
  exact ⟨_, (run_wait h hi 2).trans htwo, htwo, hidle, hdone⟩

/-- Settles O48: ldframe and lddiv write different operand registers, and the words make the wide register again. -/
theorem loadMacrosLoadTheOperands : Obligations.LoadMacrosLoadTheOperands := by
  intro s F D G h
  constructor
  · intro hi
    obtain ⟨t, hrun, hinputs, hset, hkeep⟩ :=
      run_writes [(.frameHi, wordAt F 2), (.frameMid, wordAt F 1), (.frameLo, wordAt F 0)]
        (by simp [Reg.locked]) (by simp) h hi
    refine ⟨t, hrun, ?_, hinputs, hkeep⟩
    simp only [List.forall_mem_cons] at hset
    obtain ⟨hhi, hmid, hlo, -⟩ := hset
    rw [State.hostFrame, hhi, hmid, hlo, frame_of_words]
  · intro hi
    obtain ⟨t, hrun, hinputs, hset, hkeep⟩ :=
      run_writes [(.divdW0, wordAt D 0), (.divdW1, wordAt D 1), (.divdW2, wordAt D 2), (.divdW3, wordAt D 3), (.divs, G)]
        (by simp [Reg.locked]) (by simp) h hi
    simp only [List.forall_mem_cons] at hset
    obtain ⟨h0, h1, h2, h3, hdivs, -⟩ := hset
    refine ⟨t, hrun, ?_, hdivs, hinputs, hkeep⟩
    rw [State.hostDividend, h0, h1, h2, h3, widePoly_of_words]

/-- Settles O29: a completion writes its code into STATUS, and the codes of a command are its list. -/
theorem commandsProduceTheirCodes : Obligations.CommandsProduceTheirCodes := by
  refine ⟨fun i s => ?_, Instr.results_codes, rfl, rfl⟩
  obtain ⟨t, ht, -⟩ := exec_next i s
  exact ⟨t, ht, exec_result ht, exec_status ht⟩

/-- Settles O4: each case is one branch of `step` and of `runLatched`. -/
theorem stepRunsTheLatchedCommand : Obligations.StepRunsTheLatchedCommand := by
  intro s w n
  refine ⟨step_of_due, step_of_no_hostTurn, fun t => step_of_hostTurn, fun t => step_of_idle, step_of_rest,
    fun i hi => runLatched_of_ok hi s, fun e he => ?_⟩
  exact ⟨_, runLatched_of_error he s, s.complete_completed .illegalCmd⟩

end Sys2Proof.Proofs
end

section
/-! SUPPORT. The frame check in terms of payload and generator, what it leaves in the registers, and what the decisions of a
window depend on (spec/42_demodulator.md R122 to R136). -/

namespace Sys2Proof.Machine

/-! ### The outcomes of the frame check (R132) -/

/-- Without the preamble there is no division. -/
theorem frameCheck_of_preamble_ne {F : Frame} (h : preambleField F ≠ preamble) : frameCheck F = .noPreamble := if_neg h

theorem frameCheck_of_preamble {F : Frame} (h : preambleField F = preamble) :
    frameCheck F = (divide (payloadField F).toNat bchPoly).checkCode := if_pos h

/-- What a division of the payload means for the code, in terms of multiples of the generator (R88). -/
theorem checkCode_divide_ok {P R Q rl ql : Nat} (h : divide P bchPoly = .ok R Q rl ql) :
    R = 0 ↔ ∃ M, P = clmul M bchPoly := by
  obtain ⟨hqr, -⟩ := divide_eq_ok_iff.mp h
  refine ⟨fun h0 => ⟨Q, by rw [hqr.1, h0, Nat.xor_zero]⟩, ?_⟩
  rintro ⟨M, rfl⟩
  exact (hqr.unique (isQuotRem_clmul hqr.divisor_ne_zero M)).2

/-- The generator has degree 16, so a payload below 2^16 is no nonzero multiple of it. -/
theorem not_multiple_of_lt {P : Nat} (h1 : 1 ≤ P) (h2 : P < 2 ^ 16) : ¬∃ M, P = clmul M bchPoly := by
  rintro ⟨M, rfl⟩
  have hM : M ≠ 0 := by
    rintro rfl
    exact absurd h1 (by decide)
  have hlen := bitlen_clmul hM (b := bchPoly) (by decide)
  have hpos := bitlen_pos hM
  have hshort := bitlen_le.mpr h2
  have hpoly : bitlen bchPoly = 17 := by decide
  omega

/-- The four codes of a frame with the preamble, by its payload. -/
theorem checkCode_divide (P : Nat) :
    (P = 0 ∧ (divide P bchPoly).checkCode = .divInvalidOperand) ∨
    (1 ≤ P ∧ P < 2 ^ 16 ∧ (divide P bchPoly).checkCode = .divDivisorTooLarge) ∨
    (2 ^ 16 ≤ P ∧ (¬∃ M, P = clmul M bchPoly) ∧ (divide P bchPoly).checkCode = .bchFail) ∨
    (2 ^ 16 ≤ P ∧ (∃ M, P = clmul M bchPoly) ∧ (divide P bchPoly).checkCode = .record) := by
  have hpoly : bitlen bchPoly = 17 := by decide
  rcases Nat.eq_zero_or_pos P with rfl | hpos
  · exact .inl ⟨rfl, by rw [divide_of_zero (.inl rfl)]; rfl⟩
  · rcases Nat.lt_or_ge P (2 ^ 16) with hlt | hge
    · have hshort : bitlen P < bitlen bchPoly := by
        rw [hpoly]
        exact Nat.lt_succ_of_le (bitlen_le.mpr hlt)
      exact .inr (.inl ⟨hpos, hlt, by rw [divide_of_short hpos.ne' (by decide) hshort]; rfl⟩)
    · have hlong : bitlen bchPoly ≤ bitlen P := by
        rw [hpoly]
        by_contra hlen
        exact absurd (bitlen_le.mp (Nat.le_of_lt_succ (Nat.lt_of_not_le hlen))) (Nat.not_lt_of_le hge)
      obtain ⟨R, Q, -, hok⟩ := divide_of_le (by decide) hlong
      have hiff := checkCode_divide_ok hok
      rw [hok, DivideResult.checkCode]
      by_cases hR : R = 0
      · exact .inr (.inr (.inr ⟨hge, hiff.mp hR, if_pos hR⟩))
      · exact .inr (.inr (.inl ⟨hge, fun hM => hR (hiff.mpr hM), if_neg hR⟩))

/-! ### What the frame check leaves in the registers (R134) -/

/-- Every code but NO_PREAMBLE is that of the division of the payload. -/
theorem checkCode_frameDivision {F : Frame} (h : frameCheck F ≠ .noPreamble) :
    (frameDivision F).checkCode = frameCheck F := by
  by_cases hp : preambleField F = preamble
  · exact (frameCheck_of_preamble hp).symm
  · exact absurd (frameCheck_of_preamble_ne hp) h

theorem frameDivision_of_divError {F : Frame} (h : frameCheck F = .divInvalidOperand ∨ frameCheck F = .divDivisorTooLarge) :
    frameCheck F ≠ .noPreamble ∧ (frameDivision F).registers = .zero := by
  have hne : frameCheck F ≠ .noPreamble := by obtain h | h := h <;> simp [h]
  have hcode := checkCode_frameDivision hne
  refine ⟨hne, ?_⟩
  cases hdiv : frameDivision F with
  | invalidOperand => rfl
  | divisorTooLarge => rfl
  | ok R Q rl ql =>
    rw [hdiv, DivideResult.checkCode] at hcode
    split at hcode <;> simp [← hcode] at h

/-- BCH_FAIL and RECORD come from a division that succeeds, and its remainder tells them apart. -/
theorem frameDivision_of_ok {F : Frame} (h : frameCheck F = .bchFail ∨ frameCheck F = .record) :
    frameCheck F ≠ .noPreamble ∧ ∃ R Q ql, frameDivision F = .ok R Q (bitlen R) ql ∧ (R = 0 ↔ frameCheck F = .record) := by
  have hne : frameCheck F ≠ .noPreamble := by obtain h | h := h <;> simp [h]
  have hcode := checkCode_frameDivision hne
  refine ⟨hne, ?_⟩
  cases hdiv : frameDivision F with
  | invalidOperand =>
    rw [hdiv, DivideResult.checkCode] at hcode
    simp [← hcode] at h
  | divisorTooLarge =>
    rw [hdiv, DivideResult.checkCode] at hcode
    simp [← hcode] at h
  | ok R Q rl ql =>
    obtain ⟨-, -, rfl, -⟩ := divide_eq_ok_iff.mp hdiv
    refine ⟨R, Q, ql, rfl, ?_⟩
    rw [← hcode, hdiv, DivideResult.checkCode]
    split <;> simp [*]

/-- The division registers hold the division of the payload (R35, R134). -/
theorem holdsDivision_of_frameDivision {t : State} {F : Frame} {R Q rl ql : Nat} (h : frameDivision F = .ok R Q rl ql)
    (ht : t.division = (frameDivision F).registers) : HoldsDivision R Q rl ql t := by
  have hP : bitlen (payloadField F).toNat ≤ 128 := (bitlen_toNat_le _).trans (by decide)
  exact holdsDivision_of_division h hP (by decide) (ht.trans (by rw [h]))

theorem SameRegs.append {rs qs : List Reg} {s t : State} (hr : SameRegs rs s t) (hq : SameRegs qs s t) :
    SameRegs (rs ++ qs) s t :=
  fun r h => (List.mem_append.mp h).elim (hr r) (hq r)

theorem sameRegs_recordCount {s t : State} (h : t.recordCount = s.recordCount) : SameRegs [.recordCount] s t := by
  intro r hr
  obtain rfl := List.mem_singleton.mp hr
  exact h

/-- The table of R134 is what the three registers of the frame check hold after it. -/
theorem outcomeUpdates_of_fields {F : Frame} {s t : State}
    (hdiv : t.division = if frameCheck F = .noPreamble then s.division else (frameDivision F).registers)
    (hrec : t.record = if frameCheck F = .record then extractFields s.cfg.dcBase F else s.record)
    (hcount : t.recordCount = if frameCheck F = .record then s.recordCount + 1 else s.recordCount) :
    OutcomeUpdates F s t := by
  have hkeep (h : frameCheck F ≠ .record) : SameRegs (recordRegs ++ [.recordCount]) s t := by
    rw [if_neg h] at hrec hcount
    exact (State.readReg_recordRegs_congr hrec).append (sameRegs_recordCount hcount)
  refine ⟨fun h => ?_, fun h => ?_, fun h => ?_, fun h => ?_⟩
  · rw [if_pos h] at hdiv
    rw [List.append_assoc]
    exact (State.readReg_divisionRegs_congr hdiv).append (hkeep (by simp [h]))
  · obtain ⟨hne, hzero⟩ := frameDivision_of_divError h
    rw [if_neg hne, hzero] at hdiv
    exact ⟨State.readReg_divisionRegs_zero hdiv, hkeep (by obtain h | h := h <;> simp [h])⟩
  · obtain ⟨hne, R, Q, ql, hok, hR⟩ := frameDivision_of_ok (.inl h)
    rw [if_neg hne] at hdiv
    have hrecord : frameCheck F ≠ .record := by simp [h]
    exact ⟨⟨R, Q, _, ql, hok, mt hR.mp hrecord, holdsDivision_of_frameDivision hok hdiv⟩, hkeep hrecord⟩
  · obtain ⟨hne, R, Q, ql, hok, hR⟩ := frameDivision_of_ok (.inr h)
    obtain rfl := hR.mpr h
    rw [if_neg hne] at hdiv
    rw [if_pos h] at hrec hcount
    exact ⟨⟨Q, ql, hok, holdsDivision_of_frameDivision hok hdiv⟩, hrec ▸ t.holdsRecord, hcount⟩

/-- The frame check changes STATUS, the division registers, the REC registers and RECORD_COUNT only. -/
theorem State.finishCheck_completed (s : State) (F : Frame) :
    Completed (frameCheck F) (divisionRegs ++ recordRegs ++ [.recordCount]) s (s.finishCheck F) := by
  rw [State.finishCheck_eq]
  refine { State.complete_completed _ (frameCheck F) with regs := fun r hr hw => ?_ }
  simp only [List.mem_append, List.mem_singleton, not_or] at hw
  obtain ⟨⟨hdiv, hrec⟩, hcount⟩ := hw
  rw [State.readReg_complete _ _ hr, State.readReg_writeCount _ _ hcount, State.readReg_writeRecord _ _ hrec,
    State.readReg_writeDivision _ _ hdiv]

/-- What completes after DEC was written changes DEC besides. -/
theorem Completed.of_writeDec {c : ResultCode} {rs : List Reg} {s t : State} {F : Frame}
    (h : Completed c rs (s.writeDec F) t) : Completed c (decRegs ++ rs) s t :=
  { h with
    regs := fun r hr hw => by
      rw [List.mem_append, not_or] at hw
      exact (h.regs r hr hw.2).trans (s.readReg_writeDec F hw.1) }

theorem State.finishCheck_of_noPreamble {F : Frame} (h : frameCheck F = .noPreamble) (s : State) :
    s.finishCheck F = s.complete .noPreamble := by
  rw [State.finishCheck, h, State.applyOutcome]

/-! ### What the decisions depend on (R122 to R129) -/

/-- The filter reads the elements from 2 to 14017 only. -/
theorem softOf_congr {e e' : Nat → Int} (h : ∀ j, 2 ≤ j → j < 14018 → e j = e' j) {n : Nat} (hn : n < 96) :
    softOf e n = softOf e' n := by
  have hhalf (a : Nat) (ha : 2 ≤ a) (hend : a + 73 ≤ 14018) :
      ∑ j ∈ Finset.range 73, e (a + j) = ∑ j ∈ Finset.range 73, e' (a + j) := by
    refine Finset.sum_congr rfl fun j hj => h _ (by omega) ?_
    have hj := Finset.mem_range.mp hj
    omega
  rw [softOf_eq_early_sub_late, softOf_eq_early_sub_late, hhalf _ (by omega) (by omega), hhalf _ (by omega) (by omega)]

/-- Equal energies leave nothing between the early and the late half. -/
theorem softOf_const (e : Int) (n : Nat) : softOf (fun _ => e) n = 0 := by
  rw [softOf_eq_early_sub_late, sub_self]

/-- The decisions at ALIGN are determined by the signs of the filter. -/
theorem State.decisions_eq_of_softOf {s : State} {F : Frame}
    (h : ∀ n < 96, decide (0 < softOf s.energyAt n) = F.getMsbD n) : s.decisions s.align.toNat = F :=
  BitVec.eq_of_getMsbD_eq fun n hn => (s.getMsbD_decisions hn).trans (h n hn)

/-- Windows alike from sample 2 on are decided alike. -/
theorem State.decisions_congr {s u : State} (h : ∀ j, 2 ≤ j → j < 14018 → s.energyAt j = u.energyAt j) :
    s.decisions s.align.toNat = u.decisions u.align.toNat :=
  State.decisions_eq_of_softOf fun n hn => by rw [u.getMsbD_decisions hn, softOf_congr h hn]

/-- Bytes alike give energies alike. -/
theorem State.energyAt_congr {s u : State} {j : Nat} (hcfg : s.cfg = u.cfg) (halign : s.align = u.align)
    (hI : s.byteAt (sampleBase + 2 * (u.align.toNat + j)) = u.byteAt (sampleBase + 2 * (u.align.toNat + j)))
    (hQ : s.byteAt (sampleBase + 2 * (u.align.toNat + j) + 1) = u.byteAt (sampleBase + 2 * (u.align.toNat + j) + 1)) :
    s.energyAt j = u.energyAt j := by
  rw [State.energyAt, State.energyAt, State.sampleRead, State.sampleRead, hcfg, halign, hI, hQ]

/-! ### EVAL and CHECK on states that differ where they read nothing -/

/-- The frame check reads neither the samples nor the outside world. -/
theorem State.finishCheck_withSamples (s : State) (F : Frame) (m : Memory) (e : Environment) :
    State.finishCheck F { s with mem := m, env := e } = { s.finishCheck F with mem := m, env := e } := by
  rw [State.finishCheck, State.finishCheck]
  generalize frameCheck F = c
  cases c <;> rfl

theorem State.readReg_withSamples (s : State) (m : Memory) (e : Environment) (r : Reg) :
    State.readReg { s with mem := m, env := e } r = s.readReg r := by
  cases r <;> rfl

/-- The frame check divides by BCH_POLY, not by DIVS (R132, D24). -/
theorem State.finishCheck_withDivisor (s : State) (F : Frame) (g : Word) :
    State.finishCheck F { s with divisor := g } = { s.finishCheck F with divisor := g } := by
  rw [State.finishCheck, State.finishCheck]
  generalize frameCheck F = c
  cases c <;> rfl

end Sys2Proof.Machine
end

section
/-! PROOFS. The statements about EVAL, CHECK and the operands of a command (spec/42_demodulator.md, spec/10_state.md R38). -/

namespace Sys2Proof.Proofs

open Sys2Proof Sys2Proof.Machine

/-- Settles O24: the preamble decides first, then the length of the payload, then the remainder. -/
theorem frameCheckOutcomes : Obligations.FrameCheckOutcomes := by
  intro F
  rw [show 0x16F63 = bchPoly from rfl]
  by_cases hp : F.extractLsb' 75 21 = 0x1F2A60#21
  · have hcode : frameCheck F = (divide (F.extractLsb' 0 75).toNat bchPoly).checkCode := frameCheck_of_preamble hp
    generalize (F.extractLsb' 0 75).toNat = P at hcode ⊢
    obtain ⟨hP, hc⟩ | ⟨hP, hlt, hc⟩ | ⟨hge, hM, hc⟩ | ⟨hge, hM, hc⟩ := checkCode_divide P <;> rw [hcode, hc]
    · simp [hp, hP]
    · have hM : ¬∃ M, P = clmul M bchPoly := not_multiple_of_lt hP hlt
      simp [hp, hM]
      omega
    · simp [hp, hM]
      omega
    · simp [hp, hM]
      omega
  · have hcode : frameCheck F = .noPreamble := frameCheck_of_preamble_ne hp
    simp [hcode, hp]

/-- Settles O25: CHECK is the frame check of FRAME. -/
theorem checkCommand : Obligations.CheckCommand := by
  intro s
  rw [State.hostFrame_eq]
  exact ⟨_, rfl, s.finishCheck_completed s.frame,
    outcomeUpdates_of_fields (s.finishCheck_division _) (s.finishCheck_record _) (s.finishCheck_recordCount _)⟩

/-- Settles O26: EVAL is the frame check of the decisions, after DEC took them. -/
theorem evalCommand : Obligations.EvalCommand := by
  intro s hfits
  refine ⟨_, execEval_of_fits hfits, ?_⟩
  rw [State.hostDec_eq, State.finishCheck_dec, State.writeDec_dec]
  generalize s.decisions s.align.toNat = F
  exact ⟨(State.finishCheck_completed (s.writeDec F) F).of_writeDec, rfl,
    outcomeUpdates_of_fields (State.finishCheck_division _ F) (State.finishCheck_record _ F)
      (State.finishCheck_recordCount _ F)⟩

/-- Settles O22: equal energies leave every soft value 0, and a frame of zeros has no preamble. -/
theorem equalSamplesGiveNoPreamble : Obligations.EqualSamplesGiveNoPreamble := by
  intro s e hfits henergy
  have hzero : s.decisions s.align.toNat = 0 := by
    refine State.decisions_eq_of_softOf fun n hn => ?_
    rw [softOf_congr (fun j _ hj => henergy j hj) hn, softOf_const]
    simp
  have hcheck : frameCheck 0 = .noPreamble := by decide
  have hexec := execEval_of_fits hfits
  rw [hzero, State.finishCheck_of_noPreamble hcheck] at hexec
  refine ⟨_, hexec, ?_, ?_⟩
  · have hcompleted := (State.complete_completed (s.writeDec 0) .noPreamble).of_writeDec
    rwa [List.append_nil] at hcompleted
  · rw [State.hostDec_eq]
    rfl

/-- Settles O23: the decisions read the window from sample 2 on, and nothing else of EVAL reads the memory. -/
theorem firstTwoSamplesDoNotMatter : Obligations.FirstTwoSamplesDoNotMatter := by
  intro s m r hbytes
  rcases Nat.lt_or_ge s.nsamp.toNat (s.align.toNat + 14018) with hlt | hfits
  · exact ⟨_, _, execEval_of_not_fits hlt, execEval_of_not_fits hlt, rfl,
      fun q => (State.readReg_withSamples (s.complete .windowRange) _ _ q).symm⟩
  · have hdec := State.decisions_congr (s := { s with mem := m, env := { s.env with resets := r } }) (u := s)
      fun j h2 hj => State.energyAt_congr rfl rfl (hbytes _ (by omega) (by omega)) (hbytes _ (by omega) (by omega))
    have hexec := execEval_of_fits (s := { s with mem := m, env := { s.env with resets := r } }) hfits
    have hexec0 := execEval_of_fits hfits
    rw [hdec] at hexec
    generalize s.decisions s.align.toNat = F at hexec hexec0
    have hsamples := State.finishCheck_withSamples (s.writeDec F) F m { s.env with resets := r }
    refine ⟨_, _, hexec0, hexec, rfl, fun q => ?_⟩
    exact ((congrArg (State.readReg · q) hsamples).trans (State.readReg_withSamples _ _ _ q)).symm

/-- Settles O27: the range test reads ALIGN and NSAMP only. -/
theorem windowPastNsampIsWindowRange : Obligations.WindowPastNsampIsWindowRange :=
  fun s _ h => ⟨_, execEval_of_not_fits h, s.complete_completed .windowRange, execEval_of_not_fits h⟩

/-- Settles O28: neither the window nor the frame check reads DIVS. -/
theorem frameCheckIgnoresDivs : Obligations.FrameCheckIgnoresDivs := by
  intro s g
  refine ⟨⟨_, rfl, congrArg _ (s.finishCheck_withDivisor s.frame g)⟩, ?_⟩
  rcases Nat.lt_or_ge s.nsamp.toNat (s.align.toNat + 14018) with hlt | hfits
  · exact ⟨_, execEval_of_not_fits hlt, execEval_of_not_fits hlt⟩
  · exact ⟨_, execEval_of_fits hfits, (execEval_of_fits (s := { s with divisor := g }) hfits).trans
      (congrArg _ (State.finishCheck_withDivisor (s.writeDec (s.decisions s.align.toNat)) _ g))⟩

/-- Settles O42: each command writes what it computes from its operands, or keeps its registers. -/
theorem commandsDependOnOperandsOnly : Obligations.CommandsDependOnOperandsOnly := by
  intro i s u hcfg halign hnsamp hframe hdividend hdivisor hcount hbytes
  cases i with
  | eval =>
    rcases Nat.lt_or_ge s.nsamp.toNat (s.align.toNat + 14018) with hlt | hfits
    · refine ⟨_, _, execEval_of_not_fits hlt, execEval_of_not_fits (halign ▸ hnsamp ▸ hlt), ?_⟩
      simp [hcount]
    · have hdec := State.decisions_congr fun j _ _ => State.energyAt_congr (j := j) hcfg halign (hbytes _) (hbytes _)
      have hexec := execEval_of_fits (s := u) (halign ▸ hnsamp ▸ hfits)
      rw [← hdec] at hexec
      refine ⟨_, _, execEval_of_fits hfits, hexec, ?_⟩
      generalize s.decisions s.align.toNat = F
      simp +contextual [hcount, hcfg]
  | check =>
    refine ⟨_, _, rfl, rfl, ?_⟩
    rw [← hframe]
    generalize s.frame = F
    simp +contextual [hcount, hcfg]
  | div =>
    refine ⟨_, _, rfl, rfl, ?_⟩
    have hdiv : s.divCommand = u.divCommand := by rw [State.divCommand, hdividend, hdivisor, State.divCommand]
    have hcode : u.divCommand.divCode ≠ .record := by cases u.divCommand <;> simp [DivideResult.divCode]
    simp [hdiv, hcode, hcount]
  | extract =>
    refine ⟨_, _, rfl, rfl, ?_⟩
    simp [hcount, hcfg, hframe]
  | nop =>
    refine ⟨_, _, rfl, rfl, ?_⟩
    simp [hcount]
  | clearCount =>
    refine ⟨_, _, rfl, rfl, ?_⟩
    simp

end Sys2Proof.Proofs
end

section
/-! SUPPORT. Which register writes reach the flags of STATUS (spec/60_exceptions.md R185, R186). -/

namespace Sys2Proof.Machine

section Flags

variable (s : State) (v : Word)

/-- Only STATUS reaches the error flags, and only STATUS and CMD reach DONE. -/
theorem State.writeReg_flags {r : Reg} (h : r ≠ .status) :
    (s.writeReg v r).accErr = s.accErr ∧ (s.writeReg v r).busyWrErr = s.busyWrErr ∧
      (r ≠ .cmd → (s.writeReg v r).done = s.done) := by
  cases r with
  | status => exact absurd rfl h
  | cmd => exact ⟨rfl, rfl, fun hcmd => absurd rfl hcmd⟩
  | _ => exact ⟨rfl, rfl, fun _ => rfl⟩

theorem State.busy_writeReg {r : Reg} (h : r ≠ .cmd) : (s.writeReg v r).busy = s.busy := by
  rw [State.busy_eq, s.writeReg_engine v h, State.busy_eq]

end Flags

end Sys2Proof.Machine
end

section
/-! PROOFS. The statements about the error flags and the reset input (spec/60_exceptions.md section 3,
spec/70_reset_and_hazards.md section 1). -/

namespace Sys2Proof.Proofs

open Sys2Proof Sys2Proof.Machine

/-- Settles O35: of all effects of an access only a write to STATUS clears a flag, and only one to CMD sets BUSY. -/
theorem busErrorFlagsAreSticky : Obligations.BusErrorFlagsAreSticky := by
  intro s a t
  have heffect : AccessEffect s a t := s.afterAccess_cases a
  obtain ⟨-, hresult, -⟩ : t.cfg = s.cfg ∧ t.result = s.result ∧ _ := s.afterAccess_frame a
  clear_value t
  cases heffect with
  | nothing => simp +contextual
  | accErr => simp +contextual [State.busy]
  | locked => simp +contextual [State.busy]
  | register r v ha hl =>
    by_cases hstatus : r = .status
    · subst hstatus
      have hbit (b c : Bool) (hb : b = true) (hc : (b && !c) = false) : c = true := by simpa [hb] using hc
      refine ⟨?_, fun hs ht => ⟨v, ha, hbit _ _ hs ht⟩, fun hs ht => ⟨v, ha, hbit _ _ hs ht⟩, fun _ => ⟨v, .inl ha⟩, ?_,
        rfl⟩
      · rintro ⟨hs, ht, -⟩
        cases hs.symm.trans (Bool.and_eq_true_iff.mp ht).1
      · exact fun hbusy => absurd rfl hbusy
    · obtain ⟨hacc, hbusyWr, hdone⟩ := s.writeReg_flags v hstatus
      refine ⟨?_, ?_, ?_, fun h => ?_, fun h => ?_, hresult⟩
      · simp +contextual [hacc]
      · simp +contextual [hacc]
      · simp +contextual [hbusyWr]
      · have hcmd : r = .cmd := by_contra fun hne => h (hdone hne)
        subst hcmd
        exact ⟨v, .inr ha⟩
      · have hcmd : r = .cmd := by_contra fun hne => h (s.busy_writeReg v hne)
        subst hcmd
        exact ⟨v, ha, by simpa [Reg.locked] using hl⟩
  | sample o v => simp +contextual [State.busy]

/-- Settles O44: the reset input goes before a completion that is not due. -/
theorem resetInputAbandonsTheCommand : Obligations.ResetInputAbandonsTheCommand := by
  intro s how rest w n hinputs hengine
  refine ⟨_, step_reset hinputs hengine, fun r => ?_, rfl, State.irq_of_not_done rfl, rfl, rfl, rfl, rfl, rfl⟩
  rw [State.readReg_restartDriver, State.readReg_applyReset]

end Sys2Proof.Proofs
end

section
/-! SUPPORT. The reference driver's moves and its restart, and the invariant they keep (spec/44_host_scan.md R162 to R170,
spec/70_reset_and_hazards.md R210). -/

namespace Sys2Proof.Machine

/-! ### The tests of the two loops (R162, R165) -/

/-- The outer loop goes on while 14046 samples remain. -/
theorem Driver.outerTest_cases (d : Driver) :
    (d.b + 14046 ≤ d.samples ∧ d.outerTest = { d with phase := .loadWord 0 }) ∨
      (d.samples < d.b + 14046 ∧ d.outerTest = { d with phase := .readTotal }) := by
  by_cases h : d.b + 14046 ≤ d.samples
  · exact .inl ⟨h, if_pos h⟩
  · exact .inr ⟨Nat.lt_of_not_le h, if_neg h⟩

/-- The inner loop goes on while a window without its last two samples fits the block. -/
theorem Driver.innerTest_cases (d : Driver) :
    (d.p + 14016 ≤ d.b + d.blockLength ∧ d.innerTest = { d with phase := .setAlign }) ∨
      (d.b + d.blockLength < d.p + 14016 ∧ d.innerTest = Driver.outerTest { d with b := d.b + 2880 }) := by
  by_cases h : d.p + 14016 ≤ d.b + d.blockLength
  · exact .inl ⟨h, if_pos h⟩
  · exact .inr ⟨Nat.lt_of_not_le h, if_neg h⟩

theorem cursorAfterRecord_eq (p : Nat) : cursorAfterRecord p = p + 14016 := Nat.add_assoc p 13986 30

/-! ### What no move changes -/

section After

variable (d : Driver) (v : Word)

/-- The sequence, the earlier scans' records and the count's start are the host's, whatever a move does. -/
theorem Driver.after_keeps :
    (d.after v).bytes = d.bytes ∧ (d.after v).earlier = d.earlier ∧ (d.after v).uncounted = d.uncounted := by
  cases hphase : d.phase <;> simp only [Driver.after, hphase]
  case awaitClear => split <;> simp
  case loadWord => split <;> simp
  case awaitEval => split <;> simp
  case readResult => split <;> simp
  case readCons => simp [Driver.addRecord]
  case setNsamp => simp
  all_goals trivial

@[simp] theorem Driver.after_bytes : (d.after v).bytes = d.bytes := (d.after_keeps v).1

@[simp] theorem Driver.after_earlier : (d.after v).earlier = d.earlier := (d.after_keeps v).2.1

@[simp] theorem Driver.after_uncounted : (d.after v).uncounted = d.uncounted := (d.after_keeps v).2.2

end After

/-! ### The restart (R210) -/

/-- A restart leaves a finished scan, starts again, is back before CLEAR_COUNT, or is back at the block with no record
counted. -/
theorem Driver.restart_cases (how : Restart) (d : Driver) :
    (∃ total, d.phase = .finished total ∧ d.restart how = d) ∨
    (how = .fromStart ∧ d.restart how = { Driver.start d.bytes with earlier := d.earlier ++ d.records }) ∨
    (how = .fromCursor ∧ (d.phase = .clearCount ∨ d.phase = .awaitClear) ∧
      d.restart how = { d with phase := .clearCount }) ∨
    (how = .fromCursor ∧ d.restart how = Driver.outerTest { d with uncounted := d.records.length }) := by
  obtain ⟨bytes, p, b, phase, records, earlier, uncounted⟩ := d
  cases how <;> cases phase <;> simp [Driver.restart, Driver.startAgain, Driver.resume]

/-- No record is lost. -/
theorem Driver.restart_records (how : Restart) (d : Driver) :
    (d.restart how).earlier ++ (d.restart how).records = d.earlier ++ d.records := by
  obtain ⟨-, -, hr⟩ | ⟨-, hr⟩ | ⟨-, -, hr⟩ | ⟨-, hr⟩ := d.restart_cases how <;> simp [hr, Driver.start]

/-! ### The invariant (R162, R166, R171) -/

/-- The part of the driver's invariant that does not depend on its phase. -/
structure Driver.BaseInv (d : Driver) : Prop where
  blockStart : d.b % 2880 = 0
  apart : d.records.Pairwise fun r r' => r.position + 14016 ≤ r'.position
  behind : ∀ r ∈ d.records, r.position + 14016 ≤ d.p
  uncounted : d.uncounted ≤ d.records.length

theorem Driver.Inv.base {d : Driver} (h : d.Inv) : d.BaseInv := ⟨h.blockStart, h.apart, h.behind, h.uncounted⟩

theorem Driver.BaseInv.inv {d : Driver} (h : d.BaseInv) (hp : d.phaseInv) : d.Inv :=
  ⟨h.blockStart, hp, h.apart, h.behind, h.uncounted⟩

theorem Driver.BaseInv.withPhase {d : Driver} (h : d.BaseInv) (ph : Phase) : Driver.BaseInv { d with phase := ph } :=
  ⟨h.blockStart, h.apart, h.behind, h.uncounted⟩

/-- R166: inside a block the cursor is never before the block start. -/
theorem Driver.Inv.start_le {d : Driver} (h : d.Inv) (hs : d.b + 14046 ≤ d.samples) : d.b ≤ d.p := by
  have hp := h.phase
  cases hphase : d.phase <;> simp only [Driver.phaseInv, hphase] at hp <;> omega

/-- A block that the outer loop starts holds a sample word. -/
theorem Driver.BaseInv.outerTest {d : Driver} (h : d.BaseInv) (hp : d.b + 14046 ≤ d.samples → d.b ≤ d.p) :
    d.outerTest.Inv := by
  obtain ⟨hs, ht⟩ | ⟨hs, ht⟩ := d.outerTest_cases <;> rw [ht]
  · have hpos : 2 * 0 < d.blockLength := by
      rw [Driver.blockLength, blockSize]
      omega
    exact (h.withPhase _).inv ⟨hs, hp hs, hpos⟩
  · exact (h.withPhase _).inv hs

/-- When the inner loop ends, the cursor is past the next block start, if there is another block. -/
theorem Driver.BaseInv.innerTest {d : Driver} (h : d.BaseInv) (hs : d.b + 14046 ≤ d.samples) (hp : d.b ≤ d.p) :
    d.innerTest.Inv := by
  obtain ⟨hfit, ht⟩ | ⟨hend, ht⟩ := d.innerTest_cases <;> rw [ht]
  · exact (h.withPhase _).inv ⟨hs, hp, hfit⟩
  · have hnext : Driver.BaseInv { d with b := d.b + 2880 } :=
      ⟨by rw [Nat.add_mod_right, h.blockStart], h.apart, h.behind, h.uncounted⟩
    refine hnext.outerTest fun hs' => ?_
    simp only [Driver.blockLength, blockSize] at hend
    simp only [Driver.samples] at hs' hend ⊢
    omega

/-- The cursor moves past the record's window with the record (R167). -/
theorem Driver.BaseInv.addRecord {d : Driver} (h : d.BaseInv) (r : Record) : (d.addRecord r).BaseInv where
  blockStart := h.blockStart
  apart := by
    refine List.pairwise_append.mpr ⟨h.apart, List.pairwise_singleton _ _, fun x hx y hy => ?_⟩
    obtain rfl := List.mem_singleton.mp hy
    exact h.behind x hx
  behind := by
    show ∀ x ∈ d.records ++ [ScanRecord.mk d.p r], x.position + 14016 ≤ cursorAfterRecord d.p
    intro x hx
    rw [cursorAfterRecord_eq]
    rcases List.mem_append.mp hx with hx | hx
    · exact (h.behind x hx).trans (Nat.le_add_right _ _)
    · obtain rfl := List.mem_singleton.mp hx
      exact Nat.le_refl _
  uncounted := by
    show d.uncounted ≤ (d.records ++ [ScanRecord.mk d.p r]).length
    rw [List.length_append]
    exact h.uncounted.trans (Nat.le_add_right _ _)

theorem Driver.inv_start (bytes : List Byte) (earlier : List ScanRecord) :
    Driver.Inv { Driver.start bytes with earlier := earlier } :=
  ⟨rfl, ⟨rfl, rfl, rfl⟩, List.Pairwise.nil, fun _ h => absurd h List.not_mem_nil, Nat.le_refl 0⟩

/-- Every move keeps the invariant, whatever value was read. -/
theorem Driver.Inv.after {d : Driver} (h : d.Inv) (v : Word) : (d.after v).Inv := by
  have hp := h.phase
  cases hphase : d.phase <;> simp only [Driver.phaseInv, hphase] at hp <;> simp only [Driver.after, hphase]
  case clearCount => exact (h.base.withPhase _).inv hp
  case awaitClear =>
    split
    · exact h.base.outerTest h.start_le
    · exact h
  case loadWord m =>
    obtain ⟨hs, hb, -⟩ := hp
    split
    · exact (h.base.withPhase _).inv ⟨hs, hb, ‹_›⟩
    · exact (h.base.withPhase _).inv ⟨hs, hb⟩
  case setNsamp => exact h.base.innerTest hp.1 hp.2
  case awaitEval =>
    split
    · exact (h.base.withPhase _).inv hp
    · exact h
  case readResult =>
    split
    · exact (h.base.withPhase _).inv hp
    · have hbase : Driver.BaseInv { d with p := d.p + alignmentStep } :=
        ⟨h.blockStart, h.apart, fun r hr => (h.behind r hr).trans (Nat.le_add_right _ _), h.uncounted⟩
      exact hbase.innerTest hp.1 (hp.2.1.trans (Nat.le_add_right _ _))
  case readCons id info =>
    refine (h.base.addRecord _).innerTest hp.1 (hp.2.1.trans ?_)
    show d.p ≤ cursorAfterRecord d.p
    rw [cursorAfterRecord_eq]
    exact Nat.le_add_right _ _
  case finished total => exact h
  all_goals exact (h.base.withPhase _).inv hp

theorem Driver.Inv.restart {d : Driver} (h : d.Inv) (how : Restart) : (d.restart how).Inv := by
  obtain ⟨_, -, hr⟩ | ⟨-, hr⟩ | ⟨-, hphase, hr⟩ | ⟨-, hr⟩ := d.restart_cases how <;> rw [hr]
  · exact h
  · exact Driver.inv_start _ _
  · have hp := h.phase
    refine (h.base.withPhase _).inv ?_
    obtain hphase | hphase := hphase <;> simpa only [Driver.phaseInv, hphase] using hp
  · have hbase : Driver.BaseInv { d with uncounted := d.records.length } :=
      ⟨h.blockStart, h.apart, h.behind, Nat.le_refl _⟩
    exact hbase.outerTest h.start_le

/-! ### The driver in a step -/

/-- What a host step makes of the driver. -/
theorem HostStep.driver_cases {s t : State} {d : Driver} (h : HostStep s t) (hd : s.env.driver = some d) :
    t.env.driver = some d ∨ (∃ v, t.env.driver = some (d.after v)) ∨ ∃ how, t.env.driver = some (d.restart how) := by
  cases h with
  | reset how rest =>
    exact .inr (.inr ⟨how, congrArg (Option.map fun d => Driver.restart how d) hd⟩)
  | driver d' a rest hd' =>
    cases hd.symm.trans hd'
    exact .inr (.inl ⟨_, rfl⟩)
  | event ev rest a e _ _ _ hdriver => exact .inl (hdriver.trans hd)
  | skip ev rest => exact .inl hd

theorem step_driver_cases {s t : State} {d : Driver} (h : step s = .next t) (hd : s.env.driver = some d) :
    t.env.driver = some d ∨ (∃ v, t.env.driver = some (d.after v)) ∨ ∃ how, t.env.driver = some (d.restart how) := by
  cases step_kind h with
  | completes w n _ hrun =>
    obtain ⟨-, -, -, -, henv⟩ := runLatched_frame hrun
    exact .inl (by rw [henv, hd])
  | host u hu ht =>
    obtain ⟨-, rfl⟩ | ⟨w, n, -, rfl⟩ := hu <;> exact ht.driver_cases hd
  | rests _ _ ht => exact .inl (ht ▸ hd)

end Sys2Proof.Machine
end

section
/-! PROOFS. The statements about the driver's moves (spec/44_host_scan.md, spec/70_reset_and_hazards.md section 3). -/

namespace Sys2Proof.Proofs

open Sys2Proof Sys2Proof.Machine

/-- Settles O50: the moves and the restart keep the invariant, and a step is at most one of them. -/
theorem everyStepKeepsTheDriverInvariant : Obligations.EveryStepKeepsTheDriverInvariant := by
  refine ⟨fun bytes => Driver.inv_start bytes [], fun s t d hd h hstep => ?_⟩
  obtain ht | ⟨v, ht⟩ | ⟨how, ht⟩ := step_driver_cases hstep hd
  · exact ⟨d, ht, h, rfl⟩
  · exact ⟨_, ht, h.after v, d.after_bytes v⟩
  · exact ⟨_, ht, h.restart how, d.restart_bytes how⟩

/-- Settles O49: the two ways RESULT is answered, and the record's own advance. -/
theorem cursorAdvances : Obligations.CursorAdvances := by
  have hcode : ResultCode.record.code = 7#4 := rfl
  refine ⟨fun d v hphase hv => ?_, fun d v hphase hv => ?_, fun d id info v hphase => ?_⟩
  · have hne : resultField v ≠ 7#4 := hv
    simp [Driver.after, hphase, hcode, hne, alignmentStep]
  · simp [Driver.after, hphase, hcode, hv]
  · simp [Driver.after, hphase, Driver.addRecord, cursorAfterRecord_eq]

/-- Settles O55: the outer loop's test fails at once. -/
theorem shortSequencesAreNotScanned : Obligations.ShortSequencesAreNotScanned := by
  intro bytes v w hshort hv
  have hdone : pollDone 1 0 v = true := by rw [pollDone_busy, hv, Bool.not_false]
  have hcleared : ((Driver.start bytes).after w).after v =
      Driver.outerTest { Driver.start bytes with phase := .awaitClear } := if_pos hdone
  obtain ⟨hs, -⟩ | ⟨-, ht⟩ := Driver.outerTest_cases { Driver.start bytes with phase := .awaitClear }
  · simp only [Driver.samples, Driver.start] at hs
    omega
  · rw [hcleared, ht]
    exact ⟨rfl, rfl⟩

/-- Settles O45: the reset clears the count, and the restart keeps the host's records. -/
theorem resetRestartsTheScan : Obligations.ResetRestartsTheScan := by
  intro s d how rest w n hinputs hdriver hengine
  refine ⟨_, d.restart how, step_reset hinputs hengine, rfl, rfl, rfl,
    congrArg (Option.map fun d => Driver.restart how d) hdriver, d.restart_bytes how, d.restart_records how,
    fun hhow hfinished => ?_, fun hhow hclear hawait hfinished hs => ?_⟩
  · obtain ⟨total, ht, -⟩ | ⟨-, hr⟩ | ⟨hhow', -⟩ | ⟨hhow', -⟩ := d.restart_cases how
    · exact absurd ht (hfinished total)
    · rw [hr]
      exact ⟨rfl, rfl, rfl, rfl⟩
    · cases hhow.symm.trans hhow'
    · cases hhow.symm.trans hhow'
  · obtain ⟨total, ht, -⟩ | ⟨hhow', -⟩ | ⟨-, hphase, -⟩ | ⟨-, hr⟩ := d.restart_cases how
    · exact absurd ht (hfinished total)
    · cases hhow.symm.trans hhow'
    · exact absurd hphase (not_or.mpr ⟨hclear, hawait⟩)
    · obtain ⟨-, ht⟩ | ⟨hend, -⟩ := Driver.outerTest_cases { d with uncounted := d.records.length }
      · rw [hr, ht]
        exact ⟨rfl, rfl, rfl, rfl, by simp [Driver.count]⟩
      · exact absurd hs (Nat.not_le_of_lt hend)

end Sys2Proof.Proofs
end

section
/-! SUPPORT. The count of records through a scan (spec/44_host_scan.md R170, spec/10_state.md R27), the driver's accesses, and
runs. -/

namespace Sys2Proof.Machine

/-! ### The driver's accesses (R169) -/

/-- A driver's write to a register of an idle block. -/
theorem State.afterAccess_write_idle {s : State} (h : s.engine = .idle) (r : Reg) (v : Word) :
    s.afterAccess (.write (s.cfg.base + r.offset) .word v) = s.writeReg v r := by
  rw [State.afterAccess_write_reg, State.not_busy h, Bool.and_false, if_neg Bool.false_ne_true]

/-- A write above the registers leaves the engine alone. -/
theorem State.afterAccess_write_engine (s : State) {o : Nat} (h : 0x70 ≤ o) (v : Word) :
    (s.afterAccess (.write (s.cfg.base + o) .word v)).engine = s.engine := by
  have heffect := s.afterAccess_cases (.write (s.cfg.base + o) .word v)
  generalize s.afterAccess (.write (s.cfg.base + o) .word v) = t at heffect ⊢
  cases heffect with
  | register r v' ha =>
    have hlt := r.offset_lt
    simp only [BusAccess.write.injEq] at ha
    omega
  | _ => rfl

theorem resultField_status (s : State) : resultField (s.readReg .status) = s.result.code := by
  show (0#20 ++ s.result.code ++ 0#4 ++ BitVec.ofBool s.accErr ++ BitVec.ofBool s.busyWrErr ++ BitVec.ofBool s.done ++
    BitVec.ofBool s.busy).extractLsb' 8 4 = _
  simp (disch := decide) only [BitVec.extractLsb'_append_eq_of_le, Nat.reduceSub, BitVec.extractLsb'_append_eq_right]

theorem ResultCode.code_eq_record {c : ResultCode} : c.code = ResultCode.record.code ↔ c = .record := by
  cases c <;> decide

/-! ### The count at each phase -/

/-- The count depends on the engine, RECORD_COUNT and RESULT of the block. -/
theorem State.countInv_congr {s t : State} {d : Driver} (he : t.engine = s.engine) (hc : t.recordCount = s.recordCount)
    (hr : t.result = s.result) (h : s.countInv d) : t.countInv d := by
  unfold State.countInv at h ⊢
  rw [he, hc, hr]
  exact h

/-- Between two blocks the engine is idle and every record read is counted. -/
theorem State.countInv_outerTest {s : State} {d : Driver} (h : s.engine = .idle ∧ s.recordCount = d.count) :
    s.countInv d.outerTest := by
  obtain ⟨-, ht⟩ | ⟨-, ht⟩ := d.outerTest_cases <;> rw [ht] <;> exact h

theorem State.countInv_innerTest {s : State} {d : Driver} (h : s.engine = .idle ∧ s.recordCount = d.count) :
    s.countInv d.innerTest := by
  obtain ⟨-, ht⟩ | ⟨-, ht⟩ := d.innerTest_cases <;> rw [ht]
  · exact h
  · exact State.countInv_outerTest h

/-- The record appended is the one RECORD_COUNT was ahead of the host (R27, R170). -/
theorem Driver.count_addRecord {d : Driver} (h : d.uncounted ≤ d.records.length) (r : Record) :
    (d.addRecord r).count = d.count + 1 := by
  show BitVec.ofNat 32 ((d.records ++ [ScanRecord.mk d.p r]).length - d.uncounted) = _
  rw [List.length_append, List.length_singleton, Nat.sub_add_comm h, BitVec.ofNat_add]
  rfl

/-- The wait counts down without the count's notice. -/
theorem State.countInv_tick {s : State} {d : Driver} {w : Word} {n k : Nat} (hw : s.engine = .running w n)
    (h : s.countInv d) : (s.tick w k).countInv d := by
  cases hphase : d.phase <;> simp only [State.countInv, hphase, State.tick_engine, State.tick_recordCount] at h ⊢
  case awaitClear => exact ⟨fun w' n' hr => (by cases hr; exact h.1 w n hw), fun hr => (by cases hr)⟩
  case awaitEval => exact ⟨fun w' n' hr => (by cases hr; exact h.1 w n hw), fun hr => (by cases hr)⟩
  case finished => exact h
  case clearCount => cases hw.symm.trans h
  all_goals cases hw.symm.trans h.1

/-- A completion is that of the driver's own command, and counts the record it finds. -/
theorem State.countInv_runLatched {s t : State} {d : Driver} {w : Word} {n : Nat} (hw : s.engine = .running w n)
    (hrun : runLatched w s = .next t) (h : s.countInv d) : t.countInv d := by
  obtain ⟨hidle, -⟩ := runLatched_frame hrun
  cases hphase : d.phase <;> simp only [State.countInv, hphase] at h ⊢
  case awaitClear =>
    obtain rfl := h.1 w n hw
    rw [runLatched_of_ok (decodeWord_encode .clearCount)] at hrun
    cases hrun
    exact ⟨fun w n hr => (by cases hr), fun _ => rfl⟩
  case awaitEval =>
    obtain ⟨rfl, hcount⟩ := h.1 w n hw
    rw [runLatched_of_ok (decodeWord_encode .eval)] at hrun
    rw [hidle, ← hcount]
    exact ⟨fun w n hr => (by cases hr), fun _ => exec_recordCount_check (.inl rfl) hrun⟩
  case finished => exact h
  case clearCount => cases hw.symm.trans h
  all_goals cases hw.symm.trans h.1

/-! ### The driver's turn -/

/-- The driver's move after the access `a`: on the value read, or on 0 after a write. -/
def Driver.move (d : Driver) (s : State) (a : BusAccess) : Driver := d.after ((s.accessValue a).getD 0)

/-- A read of a register leaves the block alone. -/
theorem Driver.move_read (d : Driver) (s : State) (r : Reg) :
    d.move s (.read (s.cfg.base + r.offset) .word) = d.after (s.readReg r) := by
  rw [Driver.move, State.accessValue_read_reg, Option.getD_some]

theorem Driver.move_write (d : Driver) (s : State) (addr : Nat) (v : Word) :
    d.move s (.write addr .word v) = d.after 0 := rfl

/-- The poll of `wait` goes on exactly when the block is idle. -/
theorem pollDone_status_of_idle {s : State} (h : s.engine = .idle) : pollDone 1 0 (s.readReg .status) = true := by
  rw [pollDone_status, State.not_busy h, Bool.not_false]

theorem pollDone_status_of_running {s : State} {w : Word} {n : Nat} (h : s.engine = .running w n) :
    pollDone 1 0 (s.readReg .status) = false := by
  rw [pollDone_status, State.is_busy h, Bool.not_true]

/-- Each access of the driver, with the move after it, keeps the count. -/
theorem State.countInv_afterAccess {s : State} {d : Driver} {a : BusAccess} (ha : d.access? s.cfg = some a) (hd : d.Inv)
    (h : s.countInv d) : (s.afterAccess a).countInv (d.move s a) := by
  have hp := hd.phase
  cases hphase : d.phase <;> simp only [Driver.access?, hphase, Option.some.injEq, reduceCtorEq] at ha <;>
    subst ha <;> simp only [State.countInv, hphase] at h <;> simp only [Driver.phaseInv, hphase] at hp
  case clearCount =>
    rw [State.afterAccess_write_idle h, Driver.move_write]
    simp only [Driver.after, hphase]
    exact ⟨fun w n hr => (by cases hr; rfl), fun hr => (by cases hr)⟩
  case awaitClear =>
    rw [State.afterAccess_read_reg, Driver.move_read]
    simp only [Driver.after, hphase]
    cases he : s.engine with
    | idle =>
      have hcount : d.count = 0 := by simp [Driver.count, hp.2.2]
      rw [pollDone_status_of_idle he, if_pos rfl]
      exact State.countInv_outerTest ⟨he, (h.2 he).trans hcount.symm⟩
    | running w n =>
      rw [pollDone_status_of_running he, if_neg Bool.false_ne_true]
      simp only [State.countInv, hphase]
      exact h
  case loadWord m =>
    obtain ⟨-, -, -, -, -, hcount, -⟩ :=
      s.afterAccess_frame (.write (s.cfg.base + sampleBase + 4 * m) .word (d.blockWord m))
    rw [Nat.add_assoc] at hcount ⊢
    have hengine := s.afterAccess_write_engine (o := sampleBase + 4 * m) (by rw [sampleBase]; omega) (d.blockWord m)
    rw [Driver.move_write]
    simp only [Driver.after, hphase]
    split <;> exact ⟨hengine.trans h.1, hcount.trans h.2⟩
  case setNsamp =>
    rw [State.afterAccess_write_idle h.1, Driver.move_write]
    simp only [Driver.after, hphase]
    exact State.countInv_innerTest h
  case setAlign =>
    rw [State.afterAccess_write_idle h.1, Driver.move_write]
    simp only [Driver.after, hphase]
    exact h
  case issueEval =>
    rw [State.afterAccess_write_idle h.1, Driver.move_write]
    simp only [Driver.after, hphase]
    exact ⟨fun w n hr => (by cases hr; exact ⟨rfl, h.2⟩), fun hr => (by cases hr)⟩
  case awaitEval =>
    rw [State.afterAccess_read_reg, Driver.move_read]
    simp only [Driver.after, hphase]
    cases he : s.engine with
    | idle =>
      rw [pollDone_status_of_idle he, if_pos rfl]
      exact ⟨he, h.2 he⟩
    | running w n =>
      rw [pollDone_status_of_running he, if_neg Bool.false_ne_true]
      simp only [State.countInv, hphase]
      exact h
  case readResult =>
    rw [State.afterAccess_read_reg, Driver.move_read]
    simp only [Driver.after, hphase, resultField_status, ResultCode.code_eq_record]
    obtain ⟨hidle, hcount⟩ := h
    split
    · exact ⟨hidle, hcount.trans (if_pos ‹_›)⟩
    · exact State.countInv_innerTest ⟨hidle, hcount.trans (if_neg ‹_›)⟩
  case readCons id info =>
    rw [State.afterAccess_read_reg, Driver.move_read]
    simp only [Driver.after, hphase]
    exact State.countInv_innerTest ⟨h.1, h.2.trans (Driver.count_addRecord hd.uncounted _).symm⟩
  case readTotal =>
    rw [State.afterAccess_read_reg, Driver.move_read]
    simp only [Driver.after, hphase]
    exact h.2
  all_goals
    rw [State.afterAccess_read_reg, Driver.move_read]
    simp only [Driver.after, hphase]
    exact h

/-- After the reset input RECORD_COUNT is 0, and no record counts any more (R200, R210). -/
theorem State.countInv_restart {s t : State} {d : Driver} (how : Restart) (hidle : t.engine = .idle)
    (hzero : t.recordCount = 0) (h : s.countInv d) : t.countInv (d.restart how) := by
  obtain ⟨total, hphase, hr⟩ | ⟨-, hr⟩ | ⟨-, -, hr⟩ | ⟨-, hr⟩ := d.restart_cases how <;> rw [hr]
  · simp only [State.countInv, hphase] at h ⊢
    exact h
  · exact hidle
  · exact hidle
  · refine State.countInv_outerTest ⟨hidle, hzero.trans ?_⟩
    simp [Driver.count]

/-! ### The scan's invariant -/

/-- A host step of a host that only scans: the reset input, a turn of the driver, or none. -/
theorem State.ScanInv.hostStep {s t : State} {d : Driver} (h : s.ScanInv d) (ht : HostStep s t) :
    ∃ d', t.ScanInv d' ∧ d'.bytes = d.bytes := by
  have hrest {ev : HostEvent} {rest : List HostEvent} (hi : s.env.inputs = ev :: rest) :
      ev.ofScan = true ∧ ∀ e ∈ rest, e.ofScan = true := List.forall_mem_cons.mp (hi ▸ h.host)
  cases ht with
  | reset how rest hi =>
    exact ⟨_, ⟨(hrest hi).2, congrArg (Option.map fun d => Driver.restart how d) h.driver, h.inv.restart how,
      State.countInv_restart how rfl rfl h.count⟩, d.restart_bytes how⟩
  | driver d' a rest hd ha _ hi =>
    cases h.driver.symm.trans hd
    have hhost : ∀ e ∈ rest, e.ofScan = true := by
      obtain ⟨-, rfl⟩ | hi := hi
      · exact fun _ he => absurd he List.not_mem_nil
      · exact (hrest hi).2
    exact ⟨d.move s a, ⟨hhost, rfl, h.inv.after _,
      State.countInv_congr rfl rfl rfl (State.countInv_afterAccess ha h.inv h.count)⟩, d.after_bytes _⟩
  | event ev rest a e hi hev => cases hev.symm.trans (hrest hi).1
  | skip ev rest hi => exact ⟨d, ⟨(hrest hi).2, h.driver, h.inv, State.countInv_congr rfl rfl rfl h.count⟩, rfl⟩

theorem State.ScanInv.step {s t : State} {d : Driver} (h : s.ScanInv d) (hstep : step s = .next t) :
    ∃ d', t.ScanInv d' ∧ d'.bytes = d.bytes := by
  cases step_kind hstep with
  | completes w n hw hrun =>
    obtain ⟨-, -, -, -, henv⟩ := runLatched_frame hrun
    exact ⟨d, ⟨henv ▸ h.host, henv ▸ h.driver, h.inv, State.countInv_runLatched hw hrun h.count⟩, rfl⟩
  | host u hu ht =>
    obtain ⟨-, rfl⟩ | ⟨w, n, hw, rfl⟩ := hu
    · exact h.hostStep ht
    · exact State.ScanInv.hostStep (s := s.tick w n) ⟨h.host, h.driver, h.inv, State.countInv_tick hw h.count⟩ ht
  | rests _ _ ht => exact ⟨d, ht ▸ h, rfl⟩

theorem State.scanInv_start {s : State} {bytes : List Byte} (hidle : s.engine = .idle)
    (hhost : ∀ e ∈ s.env.inputs, e.ofScan = true) (hd : s.env.driver = some (Driver.start bytes)) :
    s.ScanInv (Driver.start bytes) :=
  ⟨hhost, hd, Driver.inv_start bytes [], hidle⟩

/-- What holds at the start of a run and what every step keeps holds at its end. -/
theorem run_induction {P : State → Prop} (hstep : ∀ s t, P s → step s = .next t → P t) {k : Nat} {s t : State}
    (hs : P s) (h : core.run k s = .next t) : P t := by
  induction k generalizing s with
  | zero =>
    cases h
    exact hs
  | succ k ih =>
    obtain ⟨u, hu⟩ := step_next s
    rw [run_succ hu] at h
    exact ih (hstep s u hs hu) h

/-- With no event pending no reset comes, and every record is counted. -/
theorem step_keeps_uncounted {s t : State} {d : Driver} (hi : s.env.inputs = []) (hd : s.env.driver = some d)
    (hstep : step s = .next t) : t.env.inputs = [] ∧ ∃ d', t.env.driver = some d' ∧ d'.uncounted = d.uncounted := by
  have hhost {u : State} (hu : u.env.inputs = []) (hud : u.env.driver = some d) (ht : HostStep u t) :
      t.env.inputs = [] ∧ ∃ d', t.env.driver = some d' ∧ d'.uncounted = d.uncounted := by
    cases ht with
    | driver d' a rest hd' _ _ hi' =>
      cases hud.symm.trans hd'
      obtain ⟨-, rfl⟩ | hi' := hi'
      · exact ⟨rfl, _, rfl, d.after_uncounted _⟩
      · cases hu.symm.trans hi'
    | reset how rest hi' => cases hu.symm.trans hi'
    | event ev rest a e hi' => cases hu.symm.trans hi'
    | skip ev rest hi' => cases hu.symm.trans hi'
  cases step_kind hstep with
  | completes w n hw hrun =>
    obtain ⟨-, -, -, -, henv⟩ := runLatched_frame hrun
    rw [henv]
    exact ⟨hi, d, hd, rfl⟩
  | host u hu ht =>
    obtain ⟨-, rfl⟩ | ⟨w, n, -, rfl⟩ := hu
    · exact hhost hi hd ht
    · exact hhost (u := s.tick w n) hi hd ht
  | rests _ _ ht => exact ht ▸ ⟨hi, d, hd, rfl⟩

end Sys2Proof.Machine
end

section
/-! PROOFS. The statements about the count of records in a scan (spec/44_host_scan.md section 4). -/

namespace Sys2Proof.Proofs

open Sys2Proof Sys2Proof.Machine

/-- Settles O51: each access, completion and restart keeps the count of its phase. -/
theorem everyStepKeepsTheScanCount : Obligations.EveryStepKeepsTheScanCount :=
  ⟨fun _ _ hidle hhost hd => State.scanInv_start hidle hhost hd, fun _ _ _ h hstep => h.step hstep⟩

/-- Settles O52: the scan's invariant at the phase `finished`. -/
theorem scanTotalIsTheNumberOfRecords : Obligations.ScanTotalIsTheNumberOfRecords := by
  intro s bytes hidle hhost hd k t d total hrun ht hphase
  constructor
  · obtain ⟨d', h⟩ := run_induction (P := fun s => ∃ d, s.ScanInv d)
      (fun _ _ ⟨_, h⟩ hstep => (h.step hstep).imp fun _ h => h.1) ⟨_, State.scanInv_start hidle hhost hd⟩ hrun
    cases ht.symm.trans h.driver
    have hcount := h.count
    simp only [State.countInv, hphase] at hcount
    exact hcount
  · intro hi
    obtain ⟨-, d', hd', hzero⟩ := run_induction
      (P := fun s => s.env.inputs = [] ∧ ∃ d, s.env.driver = some d ∧ d.uncounted = 0)
      (fun _ _ ⟨hi, _, hd, hzero⟩ hstep => by
        obtain ⟨hi', d', hd', hsame⟩ := step_keeps_uncounted hi hd hstep
        exact ⟨hi', d', hd', hsame.trans hzero⟩) ⟨hi, _, hd, rfl⟩ hrun
    cases ht.symm.trans hd'
    exact hzero

end Sys2Proof.Proofs
end

section
/-! SUPPORT. Why a scan ends (spec/44_host_scan.md R172): every step but a poll of a running command takes the host's events, the
driver or the running command's wait forward. -/

namespace Sys2Proof.Machine

/-! ### The driver's rank -/

/-- Lexicographic order of four numbers, the first the most significant. -/
abbrev Rank := ℕ ×ₗ ℕ ×ₗ ℕ ×ₗ ℕ

def rankOf (part block cursor access : Nat) : Rank := toLex (part, toLex (block, toLex (cursor, access)))

theorem rankOf_lt {a b c e a' b' c' e' : Nat} :
    rankOf a b c e < rankOf a' b' c' e' ↔
      a < a' ∨ a = a' ∧ (b < b' ∨ b = b' ∧ (c < c' ∨ c = c' ∧ e < e')) := by
  simp only [rankOf, Prod.Lex.toLex_lt_toLex]

theorem rankOf_lt_of_access {a b c e e' : Nat} (h : e < e') : rankOf a b c e < rankOf a b c e' :=
  rankOf_lt.mpr (.inr ⟨rfl, .inr ⟨rfl, .inr ⟨rfl, h⟩⟩⟩)

/-- What is left of a scan: its part, the samples after the block start, those after the cursor (all of them and more while the
block is loaded), and the accesses of one evaluation or the words still to load. -/
def Driver.rank (d : Driver) : Rank :=
  match d.phase with
  | .clearCount => rankOf 4 0 0 0
  | .awaitClear => rankOf 3 0 0 0
  | .loadWord m => rankOf 2 (d.samples - d.b) (d.samples + 2) (d.blockLength - m)
  | .setNsamp => rankOf 2 (d.samples - d.b) (d.samples + 1) 0
  | .setAlign => rankOf 2 (d.samples - d.b) (d.samples - d.p) 6
  | .issueEval => rankOf 2 (d.samples - d.b) (d.samples - d.p) 5
  | .awaitEval => rankOf 2 (d.samples - d.b) (d.samples - d.p) 4
  | .readResult => rankOf 2 (d.samples - d.b) (d.samples - d.p) 3
  | .readId => rankOf 2 (d.samples - d.b) (d.samples - d.p) 2
  | .readInfo _ => rankOf 2 (d.samples - d.b) (d.samples - d.p) 1
  | .readCons _ _ => rankOf 2 (d.samples - d.b) (d.samples - d.p) 0
  | .readTotal => rankOf 1 0 0 0
  | .finished _ => rankOf 0 0 0 0

/-- A window that starts in the block lies inside the sequence. -/
theorem Driver.cursor_lt {d : Driver} (hs : d.b + 14046 ≤ d.samples) (hp : d.p + 14016 ≤ d.b + d.blockLength) :
    d.p < d.samples := by
  have hblock : d.blockLength ≤ d.samples - d.b := Nat.min_le_right _ _
  omega

/-- The outer loop's test leads to a block further on, or out of the loop. -/
theorem Driver.rank_outerTest_lt {d : Driver} {part block cursor access : Nat}
    (h : 2 < part ∨ part = 2 ∧ (d.b + 14046 ≤ d.samples → d.samples - d.b < block)) :
    d.outerTest.rank < rankOf part block cursor access := by
  obtain ⟨hs, ht⟩ | ⟨-, ht⟩ := d.outerTest_cases <;> rw [ht, Driver.rank, rankOf_lt]
  · obtain h | ⟨rfl, h⟩ := h
    · exact .inl h
    · exact .inr ⟨rfl, .inl (h hs)⟩
  · omega

/-- The inner loop's test leads to an evaluation at the cursor, or to a block further on, or out of the loops. -/
theorem Driver.rank_innerTest_lt {d : Driver} {cursor access : Nat} (hs : d.b < d.samples)
    (h : d.samples - d.p < cursor) : d.innerTest.rank < rankOf 2 (d.samples - d.b) cursor access := by
  obtain ⟨-, ht⟩ | ⟨-, ht⟩ := d.innerTest_cases <;> rw [ht]
  · rw [Driver.rank, rankOf_lt]
    exact .inr ⟨rfl, .inr ⟨rfl, .inl h⟩⟩
  · refine Driver.rank_outerTest_lt (.inr ⟨rfl, fun _ => ?_⟩)
    exact Nat.sub_lt_sub_left hs (Nat.lt_add_of_pos_right (by decide))

/-- A move takes the driver forward, unless it polls a running command or has finished. -/
theorem Driver.rank_after_lt {d : Driver} (h : d.Inv) (v : Word) (hfinished : ∀ total, d.phase ≠ .finished total)
    (hpoll : d.phase = .awaitClear ∨ d.phase = .awaitEval → pollDone 1 0 v = true) : (d.after v).rank < d.rank := by
  have hp := h.phase
  cases hphase : d.phase <;> simp only [Driver.phaseInv, hphase] at hp <;>
    simp only [Driver.after, Driver.rank, hphase]
  case clearCount => exact rankOf_lt.mpr (.inl (by decide))
  case awaitClear =>
    rw [if_pos (hpoll (.inl hphase))]
    exact Driver.rank_outerTest_lt (.inl (by decide))
  case loadWord m =>
    by_cases hmore : 2 * (m + 1) < d.blockLength
    · rw [if_pos hmore]
      have hword : d.blockLength - (m + 1) < d.blockLength - m := by omega
      exact rankOf_lt_of_access hword
    · rw [if_neg hmore]
      exact rankOf_lt.mpr (.inr ⟨rfl, .inr ⟨rfl, .inl (Nat.lt_succ_self (d.samples + 1))⟩⟩)
  case setNsamp => exact Driver.rank_innerTest_lt (by omega) (Nat.lt_succ_of_le (Nat.sub_le _ _))
  case awaitEval =>
    rw [if_pos (hpoll (.inr hphase))]
    exact rankOf_lt_of_access (by decide)
  case readResult =>
    by_cases hrecord : resultField v = ResultCode.record.code
    · rw [if_pos hrecord]
      exact rankOf_lt_of_access (by decide)
    · rw [if_neg hrecord]
      refine Driver.rank_innerTest_lt (show d.b < d.samples by omega) ?_
      show d.samples - (d.p + 30) < d.samples - d.p
      have hcursor := Driver.cursor_lt hp.1 hp.2.2
      omega
  case readCons id info =>
    refine Driver.rank_innerTest_lt (d := d.addRecord (recordOfWords id info v)) (show d.b < d.samples by omega) ?_
    show d.samples - cursorAfterRecord d.p < d.samples - d.p
    have hcursor := Driver.cursor_lt hp.1 hp.2.2
    rw [cursorAfterRecord_eq]
    omega
  case readTotal => exact rankOf_lt.mpr (.inl (by decide))
  case finished total => exact absurd hphase (hfinished total)
  all_goals exact rankOf_lt_of_access (by decide)

/-! ### The rank of a scan -/

/-- Steps a running command may still take. -/
def Engine.rank : Engine → Nat
  | .idle => 0
  | .running _ n => n + 1

/-- The host's events come first, then the driver, then the running command. -/
def State.rank (s : State) (d : Driver) : ℕ ×ₗ Rank ×ₗ ℕ :=
  toLex (s.env.inputs.length, toLex (d.rank, s.engine.rank))

theorem State.rank_lt {s t : State} {d d' : Driver} :
    t.rank d' < s.rank d ↔ t.env.inputs.length < s.env.inputs.length ∨
      t.env.inputs.length = s.env.inputs.length ∧
        (d'.rank < d.rank ∨ d'.rank = d.rank ∧ t.engine.rank < s.engine.rank) := by
  simp only [State.rank, Prod.Lex.toLex_lt_toLex]

/-- A turn of an unfinished driver takes the driver forward, or polls a running command and changes nothing. -/
theorem Driver.rank_move {s : State} {d : Driver} {a : BusAccess} (ha : d.access? s.cfg = some a) (h : d.Inv) :
    (d.move s a).rank < d.rank ∨ (d.move s a = d ∧ s.busy = true ∧ s.afterAccess a = s) := by
  have hfinished (total : Word) : d.phase ≠ .finished total := by
    intro hphase
    simp only [Driver.access?, hphase] at ha
    cases ha
  by_cases hpoll : d.phase = .awaitClear ∨ d.phase = .awaitEval
  · obtain rfl : BusAccess.read (s.cfg.base + Reg.status.offset) .word = a := by
      obtain hphase | hphase := hpoll <;> simpa only [Driver.access?, hphase, Option.some.injEq] using ha
    rw [Driver.move_read, State.afterAccess_read_reg]
    cases hb : s.busy with
    | false => exact .inl (Driver.rank_after_lt h _ hfinished fun _ => by rw [pollDone_status, hb, Bool.not_false])
    | true =>
      refine .inr ⟨?_, rfl, rfl⟩
      have hdone : pollDone 1 0 (s.readReg .status) = false := by rw [pollDone_status, hb, Bool.not_true]
      obtain hphase | hphase := hpoll <;> simp only [Driver.after, hphase, hdone] <;> rfl
  · exact .inl (Driver.rank_after_lt h _ hfinished fun hp => absurd hp hpoll)

/-- A host step takes an event off the list, or takes the driver forward, or only polls. -/
theorem HostStep.rank {s t : State} {d d' : Driver} (h : HostStep s t) (hd : s.env.driver = some d) (hinv : d.Inv)
    (hhost : ∀ e ∈ s.env.inputs, e.ofScan = true) (hd' : t.env.driver = some d') :
    t.env.inputs.length < s.env.inputs.length ∨
      t.env.inputs.length = s.env.inputs.length ∧
        (d'.rank < d.rank ∨ d' = d ∧ s.busy = true ∧ t.engine = s.engine) := by
  have hrest {ev : HostEvent} {rest : List HostEvent} (hi : s.env.inputs = ev :: rest) :
      rest.length < s.env.inputs.length := by
    rw [hi]
    exact Nat.lt_succ_self _
  cases h with
  | reset how rest hi => exact .inl (hrest hi)
  | skip ev rest hi => exact .inl (hrest hi)
  | event ev rest a e hi hev =>
    cases hev.symm.trans (hhost ev (hi ▸ List.mem_cons_self))
  | driver d₀ a rest hd₀ ha _ hi =>
    cases hd.symm.trans hd₀
    cases hd'
    obtain ⟨hnil, rfl⟩ | hi := hi
    · refine .inr ⟨congrArg List.length hnil.symm, ?_⟩
      obtain hlt | ⟨hsame, hb, heq⟩ := Driver.rank_move ha hinv
      · exact .inl hlt
      · have hengine : (s.afterAccess a).engine = s.engine := by rw [heq]
        exact .inr ⟨hsame, hb, hengine⟩
    · exact .inl (hrest hi)

/-- Every step of an unfinished scan lowers its rank. -/
theorem State.ScanInv.rank_step {s t : State} {d : Driver} (h : s.ScanInv d) (hf : ∀ total, d.phase ≠ .finished total)
    (hstep : Machine.step s = .next t) : ∃ d', t.ScanInv d' ∧ t.rank d' < s.rank d := by
  obtain ⟨d', h', -⟩ := h.step hstep
  refine ⟨d', h', State.rank_lt.mpr ?_⟩
  cases step_kind hstep with
  | completes w n hw hrun =>
    obtain ⟨hidle, -, -, -, henv⟩ := runLatched_frame hrun
    obtain rfl : d = d' := Option.some.inj (h.driver.symm.trans (henv ▸ h'.driver))
    rw [henv, hidle, hw]
    exact .inr ⟨rfl, .inr ⟨rfl, Nat.succ_pos n⟩⟩
  | host u hu ht =>
    obtain ⟨hidle, rfl⟩ | ⟨w, n, hw, rfl⟩ := hu
    · obtain hlt | ⟨hlen, hlt | ⟨-, hb, -⟩⟩ := ht.rank h.driver h.inv h.host h'.driver
      · exact .inl hlt
      · exact .inr ⟨hlen, .inl hlt⟩
      · cases hb.symm.trans (State.not_busy hidle)
    · obtain hlt | ⟨hlen, hlt | ⟨rfl, -, hengine⟩⟩ :=
        ht.rank (s := s.tick w n) h.driver h.inv h.host h'.driver
      · exact .inl hlt
      · exact .inr ⟨hlen, .inl hlt⟩
      · rw [hengine, hw]
        exact .inr ⟨hlen, .inr ⟨rfl, Nat.lt_succ_self _⟩⟩
  | rests hidle hnone ht =>
    have hdriver := h.driver
    cases hi : s.env.inputs with
    | cons ev rest => cases (State.hostTurn?_cons hi).symm.trans hnone
    | nil =>
      rw [State.hostTurn?, hi] at hnone
      simp only [State.driverTurn?, hdriver] at hnone
      cases hphase : d.phase <;> simp only [Driver.access?, hphase, reduceCtorEq] at hnone
      exact absurd hphase (hf _)

/-- Some number of steps leads to a finished driver, by induction on the rank. -/
theorem State.ScanInv.finishes {s : State} {d : Driver} (h : s.ScanInv d) :
    ∃ (k : Nat) (t : State) (d : Driver) (total : Word), core.run k s = .next t ∧ t.env.driver = some d ∧
      d.phase = .finished total := by
  induction hr : s.rank d using WellFoundedLT.induction generalizing s d with
  | ind r ih =>
    by_cases hf : ∃ total, d.phase = .finished total
    · obtain ⟨total, hf⟩ := hf
      exact ⟨0, s, d, total, rfl, h.driver, hf⟩
    · obtain ⟨u, hu⟩ := step_next s
      obtain ⟨d', h', hlt⟩ := h.rank_step (not_exists.mp hf) hu
      obtain ⟨k, t, e, total, hrun, ht⟩ := ih _ (hr ▸ hlt) h' rfl
      exact ⟨k + 1, t, e, total, (run_succ hu k).trans hrun, ht⟩

end Sys2Proof.Machine
end

section
/-! PROOFS. The statement that every scan ends (spec/44_host_scan.md section 4). -/

namespace Sys2Proof.Proofs

open Sys2Proof Sys2Proof.Machine

/-- Settles O53: the rank of a scan falls with every step until the driver has finished. -/
theorem everyScanEnds : Obligations.EveryScanEnds :=
  fun _ _ hidle hhost hd => (State.scanInv_start hidle hhost hd).finishes

end Sys2Proof.Proofs
end

section
/-! SUPPORT. Where the records of a scan come from: the block holds the samples of the sequence at the block start, EVAL decides
them at the cursor, and the host reads the record of that frame (spec/44_host_scan.md R161 to R171). -/

namespace Sys2Proof.Machine

/-! ### A record at its position -/

/-- The window at sample `p` lies inside the sequence, its decisions pass the frame check, and `r` has their fields. -/
def FrameAt (c : Config) (bytes : List Byte) (p : Nat) (r : Record) : Prop :=
  2 * (p + 14018) ≤ bytes.length ∧
    ∃ F : Frame, (∀ n < 96, F.getMsbD n = decide (0 < softOf (fun j => sequenceEnergy c.byteFormat bytes (p + j)) n)) ∧
      frameCheck F = .record ∧ r = extractFields c.dcBase F

/-- The three REC words make the record again (R67, R167). -/
theorem recordOfWords_readReg (s : State) :
    recordOfWords (s.readReg .recId) (s.readReg .recInfo) (s.readReg .recCons) = s.record := by
  show (⟨(0#6 ++ s.record.meterId).extractLsb' 0 26,
    (0#24 ++ s.record.encTamper ++ s.record.physTamper ++ s.record.meterType).extractLsb' 0 4,
    (0#24 ++ s.record.encTamper ++ s.record.physTamper ++ s.record.meterType).extractLsb' 4 2,
    (0#24 ++ s.record.encTamper ++ s.record.physTamper ++ s.record.meterType).extractLsb' 6 2,
    (0#8 ++ s.record.consumption).extractLsb' 0 24⟩ : Record) = s.record
  simp (disch := decide) only [BitVec.extractLsb'_append_eq_of_le, Nat.reduceSub, BitVec.extractLsb'_append_eq_right]

/-! ### The block in the sample memory -/

/-- The first `n` samples of the block, as far as it goes, are those of the sequence from the block start on. -/
def State.Loaded (s : State) (d : Driver) (n : Nat) : Prop :=
  ∀ k < n, k < d.blockLength →
    s.sampleRead k = (d.bytes.getD (2 * (d.b + k)) 0, d.bytes.getD (2 * (d.b + k) + 1) 0)

/-- The block is loaded and NSAMP is its length. -/
def State.BlockReady (s : State) (d : Driver) : Prop :=
  s.Loaded d d.blockLength ∧ s.nsamp.toNat = d.blockLength

/-- What the block holds of the sequence at each phase of the driver. -/
def State.loadInv (s : State) (d : Driver) : Prop :=
  match d.phase with
  | .clearCount | .awaitClear | .readTotal | .finished _ => True
  | .loadWord m => s.Loaded d (2 * m)
  | .setNsamp => s.Loaded d d.blockLength
  | .setAlign => s.BlockReady d
  | .issueEval => s.BlockReady d ∧ s.align.toNat = d.p - d.b
  | .awaitEval =>
    s.BlockReady d ∧ s.align.toNat = d.p - d.b ∧
      (s.engine = .idle → s.result = .record → FrameAt s.cfg d.bytes d.p s.record)
  | .readResult => s.BlockReady d ∧ (s.result = .record → FrameAt s.cfg d.bytes d.p s.record)
  | .readId => s.BlockReady d ∧ FrameAt s.cfg d.bytes d.p s.record
  | .readInfo id => s.BlockReady d ∧ FrameAt s.cfg d.bytes d.p s.record ∧ id = s.readReg .recId
  | .readCons id info =>
    s.BlockReady d ∧ FrameAt s.cfg d.bytes d.p s.record ∧ id = s.readReg .recId ∧ info = s.readReg .recInfo

/-- The samples change only with the memory and the resets. -/
theorem State.sampleRead_congr {s t : State} (hmem : t.mem = s.mem) (hresets : t.env.resets = s.env.resets) (k : Nat) :
    t.sampleRead k = s.sampleRead k := by
  rw [State.sampleRead, State.byteAt_congr hmem hresets, State.byteAt_congr hmem hresets, State.sampleRead]

theorem State.Loaded.congr {s t : State} {d : Driver} {n : Nat} (h : s.Loaded d n) (hmem : t.mem = s.mem)
    (hresets : t.env.resets = s.env.resets) : t.Loaded d n :=
  fun k hk hb => (State.sampleRead_congr hmem hresets k).trans (h k hk hb)

theorem State.loadInv_withEnv {s : State} {d : Driver} {e : Environment} (he : e.resets = s.env.resets)
    (h : s.loadInv d) : State.loadInv { s with env := e } d := by
  have hread : State.sampleRead { s with env := e } = s.sampleRead :=
    funext fun k => State.sampleRead_congr (s := s) (t := { s with env := e }) rfl he k
  simp only [State.loadInv, State.BlockReady, State.Loaded, hread, State.readReg_withEnv] at h ⊢
  exact h

/-- A command that still runs has found nothing yet. -/
theorem State.loadInv_tick {s : State} {d : Driver} {w : Word} {n : Nat} (h : s.loadInv d) : (s.tick w n).loadInv d := by
  cases hphase : d.phase <;> simp only [State.loadInv, hphase] at h ⊢
  case awaitEval => exact ⟨h.1, h.2.1, fun hr => (by cases hr)⟩
  all_goals exact h

/-- A test that starts a block asks nothing of the memory. -/
theorem State.loadInv_outerTest (s : State) (d : Driver) : s.loadInv d.outerTest := by
  obtain ⟨-, ht⟩ | ⟨-, ht⟩ := d.outerTest_cases <;> rw [ht]
  · exact fun k hk => absurd hk (Nat.not_lt_zero k)
  · trivial

theorem State.loadInv_innerTest {s : State} {d : Driver} (h : s.BlockReady d) : s.loadInv d.innerTest := by
  obtain ⟨-, ht⟩ | ⟨-, ht⟩ := d.innerTest_cases <;> rw [ht]
  · exact h
  · exact s.loadInv_outerTest _

theorem State.loadInv_restart (s : State) (how : Restart) (d : Driver) : s.loadInv (d.restart how) := by
  obtain ⟨total, hphase, hr⟩ | ⟨-, hr⟩ | ⟨-, -, hr⟩ | ⟨-, hr⟩ := d.restart_cases how <;> rw [hr]
  · simp only [State.loadInv, hphase]
  · trivial
  · trivial
  · exact s.loadInv_outerTest _

/-! ### The load of a word (R163, R169) -/

/-- The two samples of a word of the block load, I before Q. -/
theorem Driver.blockWord_samples (d : Driver) (m : Nat) :
    ((byteOfWord (d.blockWord m) 0, byteOfWord (d.blockWord m) 1) =
      ((d.sampleHalf (d.b + 2 * m)).extractLsb' 0 8, (d.sampleHalf (d.b + 2 * m)).extractLsb' 8 8)) ∧
    ((byteOfWord (d.blockWord m) 2, byteOfWord (d.blockWord m) 3) =
      ((d.sampleHalf (d.b + 2 * m + 1)).extractLsb' 0 8, (d.sampleHalf (d.b + 2 * m + 1)).extractLsb' 8 8)) := by
  have hbytes := bytesOfWord_append (d.sampleHalf (d.b + 2 * m + 1)) (d.sampleHalf (d.b + 2 * m))
  rw [← Driver.blockWord, bytesOfWord] at hbytes
  simp only [List.cons.injEq, and_true] at hbytes
  obtain ⟨h0, h1, h2, h3⟩ := hbytes
  exact ⟨Prod.ext h0 h1, Prod.ext h2 h3⟩

/-- Storing word `m` of the block loads two samples more. -/
theorem State.Loaded.storeWord {s : State} {d : Driver} {m : Nat} (h : s.Loaded d (2 * m)) :
    (s.storeWord (sampleBase + 4 * m) (d.blockWord m)).Loaded d (2 * (m + 1)) := by
  intro k hk hb
  have hsample : d.b + k < d.samples := by
    rw [Driver.blockLength] at hb
    omega
  obtain ⟨hI, hQ⟩ := d.sampleHalf_bytes hsample
  obtain ⟨heven, hodd⟩ := d.blockWord_samples m
  by_cases h0 : k = 2 * m
  · subst h0
    rw [State.sampleRead_storeWord_even, heven, hI, hQ]
  · by_cases h1 : k = 2 * m + 1
    · subst h1
      rw [State.sampleRead_storeWord_odd, hodd, Nat.add_assoc, hI, hQ]
    · rw [State.sampleRead_storeWord_ne s _ h0 h1]
      exact h k (by omega) hb

/-- On a block with room for 18688 samples the driver's load is a store. -/
theorem State.afterAccess_loadWord {s : State} {d : Driver} {m : Nat} (hidle : s.engine = .idle)
    (hcap : 18688 ≤ s.cfg.sampleCap) (hm : 2 * m < d.blockLength) (v : Word) :
    s.afterAccess (.write (s.cfg.base + sampleBase + 4 * m) .word v) = s.storeWord (sampleBase + 4 * m) v := by
  have hblock : d.blockLength ≤ 18688 := Nat.min_le_left _ _
  have hwindow : sampleBase + 4 * m < windowBytes := by
    rw [sampleBase, windowBytes]
    omega
  rw [Nat.add_assoc]
  simp only [State.afterAccess, Config.windowOffset?_base _ _ hwindow]
  exact s.afterWrite_sampleWord_idle (by omega) (State.not_busy hidle) v

/-! ### The evaluation -/

/-- A window inside the loaded block has the energies of the sequence at the cursor. -/
theorem State.energyAt_of_loaded {s : State} {d : Driver} (h : s.BlockReady d) (halign : s.align.toNat = d.p - d.b)
    (hp : d.b ≤ d.p) (hfits : s.align.toNat + 14018 ≤ s.nsamp.toNat) {j : Nat} (hj : j < 14018) :
    s.energyAt j = sequenceEnergy s.cfg.byteFormat d.bytes (d.p + j) := by
  obtain ⟨hload, hnsamp⟩ := h
  have hk : s.align.toNat + j < d.blockLength := by omega
  rw [State.energyAt, hload _ hk hk, sequenceEnergy, show d.b + (s.align.toNat + j) = d.p + j by omega]

/-- EVAL that completes with RECORD has found a frame of the sequence at the cursor. -/
theorem frameAt_of_eval {s t : State} {d : Driver} (h : s.BlockReady d) (halign : s.align.toNat = d.p - d.b)
    (hp : d.b ≤ d.p) (hs : d.b ≤ d.samples) (hexec : exec .eval s = .next t) (hrecord : t.result = .record) :
    FrameAt s.cfg d.bytes d.p t.record := by
  rcases Nat.lt_or_ge s.nsamp.toNat (s.align.toNat + 14018) with hlt | hfits
  · rw [execEval_of_not_fits hlt] at hexec
    cases hexec
    cases hrecord
  · have hwindow : d.p + 14018 ≤ d.samples := by
      have hblock : d.blockLength ≤ d.samples - d.b := Nat.min_le_right _ _
      have hnsamp := h.2
      omega
    have hend : 2 * (d.p + 14018) ≤ d.bytes.length :=
      (Nat.mul_le_mul_left 2 hwindow).trans (Nat.mul_div_le _ 2)
    rw [execEval_of_fits hfits] at hexec
    cases hexec
    rw [State.finishCheck_result] at hrecord
    refine ⟨hend, s.decisions s.align.toNat, fun n hn => ?_, hrecord, ?_⟩
    · rw [s.getMsbD_decisions hn, softOf_congr (fun j _ hj => State.energyAt_of_loaded h halign hp hfits hj) hn]
    · rw [State.finishCheck_record, if_pos hrecord, State.writeDec_cfg]

/-! ### Every step keeps what is loaded and found -/

/-- A command that completes is the driver's own, and an EVAL that finds a record finds it at the cursor. -/
theorem State.loadInv_runLatched {s t : State} {d : Driver} {w : Word} {n : Nat} (h : s.ScanInv d)
    (hw : s.engine = .running w n) (hrun : runLatched w s = .next t) (hl : s.loadInv d) : t.loadInv d := by
  have hcount := h.count
  have hp := h.inv.phase
  cases hphase : d.phase <;> simp only [State.countInv, hphase] at hcount <;>
    simp only [Driver.phaseInv, hphase] at hp <;> simp only [State.loadInv, hphase] at hl ⊢
  case awaitEval =>
    obtain ⟨⟨hload, hnsamp⟩, halign, -⟩ := hl
    obtain ⟨rfl, -⟩ := hcount.1 w n hw
    obtain ⟨-, -, hcfg, hmem, henv⟩ := runLatched_frame hrun
    have hsame := runLatched_eq hrun
    have hnsamp' : t.nsamp = s.nsamp := (congrArg State.nsamp hsame).trans rfl
    have halign' : t.align = s.align := (congrArg State.align hsame).trans rfl
    refine ⟨⟨hload.congr hmem (by rw [henv]), by rw [hnsamp', hnsamp]⟩, by rw [halign', halign], fun _ hrecord => ?_⟩
    rw [runLatched_of_ok (decodeWord_encode .eval)] at hrun
    rw [hcfg]
    exact frameAt_of_eval ⟨hload, hnsamp⟩ halign hp.2.1 (by omega) hrun hrecord
  all_goals cases hw.symm.trans hcount.1

/-- Each access of the driver, with the move after it, keeps what is loaded. -/
theorem State.loadInv_afterAccess {s : State} {d : Driver} {a : BusAccess} (h : s.ScanInv d)
    (hcap : 18688 ≤ s.cfg.sampleCap) (ha : d.access? s.cfg = some a) (hl : s.loadInv d) :
    (s.afterAccess a).loadInv (d.move s a) := by
  have hcount := h.count
  have hp := h.inv.phase
  have hblock : d.blockLength ≤ 18688 := Nat.min_le_left _ _
  cases hphase : d.phase <;> simp only [Driver.access?, hphase, Option.some.injEq, reduceCtorEq] at ha <;> subst ha <;>
    simp only [State.countInv, hphase] at hcount <;> simp only [Driver.phaseInv, hphase] at hp <;>
    simp only [State.loadInv, hphase] at hl
  case clearCount =>
    rw [Driver.move_write]
    simp only [Driver.after, hphase, State.loadInv]
  case awaitClear =>
    rw [Driver.move_read]
    simp only [Driver.after, hphase]
    split
    · exact State.loadInv_outerTest _ d
    · simp only [State.loadInv, hphase]
  case loadWord m =>
    rw [State.afterAccess_loadWord hcount.1 hcap hp.2.2, Driver.move_write]
    have hload := State.Loaded.storeWord hl
    simp only [Driver.after, hphase]
    split
    · exact hload
    · have hlast : d.blockLength ≤ 2 * (m + 1) := Nat.le_of_not_lt ‹_›
      exact fun k hk hb => hload k (Nat.lt_of_lt_of_le hk hlast) hb
  case setNsamp =>
    rw [State.afterAccess_write_idle hcount.1, Driver.move_write]
    simp only [Driver.after, hphase]
    refine State.loadInv_innerTest ⟨hl, ?_⟩
    show (min (d.blockLength % 2 ^ 32) s.cfg.sampleCap) % 2 ^ 16 = d.blockLength
    omega
  case setAlign =>
    rw [State.afterAccess_write_idle hcount.1, Driver.move_write]
    simp only [Driver.after, hphase]
    exact ⟨hl, Nat.mod_eq_of_lt (by omega)⟩
  case issueEval =>
    rw [State.afterAccess_write_idle hcount.1, Driver.move_write]
    simp only [Driver.after, hphase]
    exact ⟨hl.1, hl.2, fun hr => (by cases hr)⟩
  case awaitEval =>
    rw [State.afterAccess_read_reg, Driver.move_read]
    simp only [Driver.after, hphase]
    cases he : s.engine with
    | idle =>
      rw [pollDone_status_of_idle he, if_pos rfl]
      exact ⟨hl.1, hl.2.2 he⟩
    | running w n =>
      rw [pollDone_status_of_running he, if_neg Bool.false_ne_true]
      simp only [State.loadInv, hphase]
      exact hl
  case readResult =>
    rw [State.afterAccess_read_reg, Driver.move_read]
    simp only [Driver.after, hphase, resultField_status, ResultCode.code_eq_record]
    split
    · exact ⟨hl.1, hl.2 ‹_›⟩
    · exact State.loadInv_innerTest hl.1
  case readId =>
    rw [State.afterAccess_read_reg, Driver.move_read]
    simp only [Driver.after, hphase]
    exact ⟨hl.1, hl.2, rfl⟩
  case readInfo id =>
    rw [State.afterAccess_read_reg, Driver.move_read]
    simp only [Driver.after, hphase]
    exact ⟨hl.1, hl.2.1, hl.2.2, rfl⟩
  case readCons id info =>
    rw [State.afterAccess_read_reg, Driver.move_read]
    simp only [Driver.after, hphase]
    exact State.loadInv_innerTest hl.1
  case readTotal =>
    rw [Driver.move_read]
    simp only [Driver.after, hphase, State.loadInv]

/-- The only record a move adds is read from the REC registers, with the cursor at which it was found (R167). -/
theorem Driver.after_records (d : Driver) (v : Word) :
    (d.after v).records = d.records ∨
      ∃ id info, d.phase = .readCons id info ∧ (d.after v).records = d.records ++ [⟨d.p, recordOfWords id info v⟩] := by
  cases hphase : d.phase <;> simp only [Driver.after, hphase]
  case readCons id info =>
    rw [Driver.innerTest_records]
    exact .inr ⟨id, info, rfl, rfl⟩
  all_goals left
  case awaitClear => split <;> simp
  case loadWord => split <;> rfl
  case awaitEval => split <;> rfl
  case readResult => split <;> simp
  case setNsamp => simp
  all_goals trivial

/-- What holds of a scan of `bytes` on a block with parameters `c`: the scan's invariant, what is loaded, and that every
record the host has is a frame of the sequence. -/
structure State.FoundInv (c : Config) (bytes : List Byte) (s : State) (d : Driver) : Prop where
  scan : s.ScanInv d
  cfg : s.cfg = c
  sequence : d.bytes = bytes
  load : s.loadInv d
  found : ∀ r ∈ d.earlier ++ d.records, FrameAt c bytes r.position r.fields

/-- The move after each access adds a record that is a frame of the sequence, or none. -/
theorem State.FoundInv.found_move {c : Config} {bytes : List Byte} {s : State} {d : Driver} {a : BusAccess}
    (h : State.FoundInv c bytes s d) (ha : d.access? s.cfg = some a) :
    ∀ r ∈ (d.move s a).earlier ++ (d.move s a).records, FrameAt c bytes r.position r.fields := by
  rw [Driver.move, Driver.after_earlier]
  obtain hrecords | ⟨id, info, hphase, hrecords⟩ := d.after_records ((s.accessValue a).getD 0) <;> rw [hrecords]
  · exact h.found
  · have hl := h.load
    simp only [State.loadInv, hphase] at hl
    obtain ⟨-, hframe, rfl, rfl⟩ := hl
    simp only [Driver.access?, hphase, Option.some.injEq] at ha
    subst ha
    rw [State.accessValue_read_reg, Option.getD_some, recordOfWords_readReg, ← List.append_assoc]
    rw [h.cfg, h.sequence] at hframe
    exact fun r hr => (List.mem_append.mp hr).elim (h.found r) fun hr => List.mem_singleton.mp hr ▸ hframe

/-- A host step of a host that only scans keeps what is loaded and found. -/
theorem State.FoundInv.hostStep {c : Config} (hcap : 18688 ≤ c.sampleCap) {bytes : List Byte} {s t : State} {d d' : Driver}
    (h : State.FoundInv c bytes s d) (ht : HostStep s t) (h' : t.ScanInv d') : State.FoundInv c bytes t d' := by
  cases ht with
  | reset how rest hi =>
    obtain rfl : d.restart how = d' :=
      Option.some.inj ((congrArg (Option.map fun d => Driver.restart how d) h.scan.driver).symm.trans h'.driver)
    exact ⟨h', h.cfg, (d.restart_bytes how).trans h.sequence, State.loadInv_restart _ how d,
      (d.restart_records how).symm ▸ h.found⟩
  | driver d₀ a rest hd₀ ha _ hi =>
    cases h.scan.driver.symm.trans hd₀
    obtain rfl : d.move s a = d' := Option.some.inj h'.driver
    obtain ⟨hcfg, -, -, -, -, -, -, -, hresets⟩ := s.afterAccess_frame a
    exact ⟨h', hcfg.trans h.cfg, (d.after_bytes _).trans h.sequence,
      State.loadInv_withEnv rfl (State.loadInv_afterAccess h.scan (h.cfg ▸ hcap) ha h.load), h.found_move ha⟩
  | event ev rest a e hi hev => cases hev.symm.trans (h.scan.host ev (hi ▸ List.mem_cons_self))
  | skip ev rest hi =>
    obtain rfl : d = d' := Option.some.inj (h.scan.driver.symm.trans h'.driver)
    exact ⟨h', h.cfg, h.sequence, State.loadInv_withEnv rfl h.load, h.found⟩

theorem State.FoundInv.step {c : Config} (hcap : 18688 ≤ c.sampleCap) {bytes : List Byte} {s t : State} {d : Driver}
    (h : State.FoundInv c bytes s d) (hstep : Machine.step s = .next t) : ∃ d', State.FoundInv c bytes t d' := by
  obtain ⟨d', h', -⟩ := h.scan.step hstep
  refine ⟨d', ?_⟩
  cases step_kind hstep with
  | completes w n hw hrun =>
    obtain ⟨-, -, hcfg, -, henv⟩ := runLatched_frame hrun
    obtain rfl : d = d' := Option.some.inj (h.scan.driver.symm.trans (henv ▸ h'.driver))
    exact ⟨h', hcfg.trans h.cfg, h.sequence, State.loadInv_runLatched h.scan hw hrun h.load, h.found⟩
  | host u hu ht =>
    obtain ⟨-, rfl⟩ | ⟨w, n, hw, rfl⟩ := hu
    · exact h.hostStep hcap ht h'
    · have htick : State.FoundInv c bytes (s.tick w n) d :=
        ⟨⟨h.scan.host, h.scan.driver, h.scan.inv, State.countInv_tick hw h.scan.count⟩, h.cfg, h.sequence,
          State.loadInv_tick h.load, h.found⟩
      exact htick.hostStep hcap ht h'
  | rests _ _ ht =>
    subst ht
    obtain rfl : d = d' := Option.some.inj (h.scan.driver.symm.trans h'.driver)
    exact h

end Sys2Proof.Machine
end

section
/-! PROOFS. The statement about the records of a scan (spec/44_host_scan.md section 4). -/

namespace Sys2Proof.Proofs

open Sys2Proof Sys2Proof.Machine

/-- Settles O54: what is loaded and found at the start of a scan, every step keeps. -/
theorem scanRecordsAreFramesOfTheSequence : Obligations.ScanRecordsAreFramesOfTheSequence := by
  intro s bytes _ hcap hidle hhost hd k t d hrun ht
  have hstart : State.FoundInv s.cfg bytes s (Driver.start bytes) :=
    ⟨State.scanInv_start hidle hhost hd, rfl, rfl, trivial, fun _ hr => absurd hr List.not_mem_nil⟩
  obtain ⟨d', h⟩ := run_induction (P := fun u => ∃ d, State.FoundInv s.cfg bytes u d)
    (fun _ _ ⟨_, h⟩ hstep => h.step hcap hstep) ⟨_, hstart⟩ hrun
  cases ht.symm.trans h.scan.driver
  exact h.found

end Sys2Proof.Proofs
end
